-- ==== Sys2Proof/Word.lean ====
section
/-! DEFINITION. The bit-vector types of the block: bytes (R9), 32-bit words (R37), 16-bit register fields (R23..R27)
and 16-bit bus addresses (R37). -/

namespace Sys2Proof

/-- A byte: an integer in 0..255, bit 7 the most significant (R9). -/
abbrev Byte := BitVec 8

/-- A 32-bit word: what one bus access moves, and the width of every register (R37). -/
abbrev Word := BitVec 32

/-- The 16-bit field of ILEN, OLEN, PAGE, COUNT and ERRBLK (R23..R27). -/
abbrev Half := BitVec 16

/-- A byte address on the host bus (R37). -/
abbrev BusAddr := BitVec 16

end Sys2Proof
end

