-- ==== Sys2Proof/Config.lean ====
section
/-! DEFINITION. The parameters of the block (R7): the fixed numbers, the OPEN constants (opaque: nothing in Lean knows a
value of them), and the two free values of the model. -/

namespace Sys2Proof.Config

/-! ## Sizes and offsets (R7, kinds source, derived and decided) -/

/-- `BLK_IN`: bytes of 8-bit data per block. -/
@[simp] abbrev blkIn : Nat := 125
/-- `FRAME`: bytes per page frame. -/
@[simp] abbrev frame : Nat := 155
/-- `HDR_PH`: zero placeholder bytes at the start of a scrambled frame. -/
@[simp] abbrev hdrPh : Nat := 10
/-- `TRAILER`: zero placeholder bytes at the end of a scrambled frame. -/
@[simp] abbrev trailer : Nat := 2
/-- `GROUP`: data bytes per full group. -/
@[simp] abbrev group : Nat := 7
/-- `NFULL`: full groups per block. -/
@[simp] abbrev nFull : Nat := 17
/-- `LASTG`: data bytes in the final partial group of a block. -/
@[simp] abbrev lastG : Nat := 6
/-- `PAYLOAD`: scrambled payload bytes per frame. -/
@[simp] abbrev payload : Nat := 143
/-- `HDR_OFF`: offset of the 8-byte protocol header. -/
@[simp] abbrev hdrOff : Nat := 0
/-- `ADDR_OFF`: offset of the 2-byte page address. -/
@[simp] abbrev addrOff : Nat := 8
/-- `PAY_OFF`: offset of the first payload byte. -/
@[simp] abbrev payOff : Nat := 10
/-- `CSUM_OFF`: offset of the checksum byte. -/
@[simp] abbrev csumOff : Nat := 153
/-- `EOX_OFF`: offset of the SysEx terminator byte. -/
@[simp] abbrev eoxOff : Nat := 154
/-- `PATCH_BYTES`: size of a patch blob, 2 blocks (R97). -/
@[simp] abbrev patchBytes : Nat := 250
/-- `GLOBAL_BYTES`: size of the global blob, 16 blocks (R97). -/
@[simp] abbrev globalBytes : Nat := 2000
/-- `MAX_BLOCKS`: most blocks one command handles. -/
@[simp] abbrev maxBlocks : Nat := 16
/-- `BUF_CAP`: bytes in IBUF and in OBUF each. -/
@[simp] abbrev bufCap : Nat := 2480

/-- `EOX`: the SysEx terminator byte, 0xF7 (R7, D14; the spec takes the value from general knowledge, G1). -/
abbrev eox : Byte := 0xF7#8

/-! ## OPEN parameters (R7, kind OPEN). None of R8's constraints is assumed (log 6). -/

/-- `WR_HDR[0..7]`: the bytes Write Page puts at offsets 0..7 (D13). -/
opaque wrHdr : Fin 8 → Byte

/-- `RQ_HDR_LEN`: the length of the Data Request header, at most `BUF_CAP` − 6 = 2474 (D11). -/
opaque rqHdrLen : Fin 2475

/-- `RQ_HDR[0..RQ_HDR_LEN−1]`: the Data Request header bytes (D11). -/
opaque rqHdr : Fin rqHdrLen.val → Byte

/-- `ID_REQ[0..4]`: the Identify Request bytes (D12). -/
opaque idReq : Fin 5 → Byte

/-- `REPLY_FRAMES_PER_COUNT`: frames the device returns per unit of a Data Request's length. For the HOST alone: no rule
of the block depends on it (R7, R118, D28). -/
opaque replyFramesPerCount : Nat

/-- `WR_HDR[0..8)` as a sequence. -/
def wrHdrBytes : List Byte := List.ofFn wrHdr

/-- `RQ_HDR[0..RQ_HDR_LEN)` as a sequence. -/
def rqHdrBytes : List Byte := List.ofFn rqHdr

/-- `ID_REQ[0..5)` as a sequence. -/
def idReqBytes : List Byte := List.ofFn idReq

/-- How many bytes a HOST expects in answer to a Data Request of this COUNT (R118). No rule of the block uses it. -/
def replyBytes (count : Nat) : Nat := frame * (replyFramesPerCount * count)

/-! ## Free values -/

/-- `draw()` (R12): the byte that the `n`-th draw of the machine gives. Unconstrained (log 3). -/
opaque drawByte : Nat → Byte

/-- What host variable `n` holds before the script assigns it. Unconstrained (log 12). -/
opaque unsetHostVar : Nat → Word

end Sys2Proof.Config
end

