-- ==== Sys2Proof/Machine/Memory.lean ====
section
/-! DEFINITION. Byte sequences (R11) and the stores of the model: sparse data by number, as a list of pairs in one
canonical form. IBUF and OBUF are such stores of bytes by index (R28, R29, R36). An index that is not listed has no value
of its own: it reads as draw(), which is no fixed byte, so a listed entry never equals what an unlisted one reads as. -/

namespace Sys2Proof.Machine

/-! ## Sequences (R11) -/

/-- `s[a..b)` (R11). -/
def seg (s : List Byte) (a b : Nat) : List Byte := (s.drop a).take (b - a)

/-- `s[i]`, for an `i` inside `s` (R11). -/
def byteAt (s : List Byte) (i : Nat) : Byte := s.getD i 0

/-- `s[a .. a + len(t)) <- t`: `s` with `t` written over it from offset `a` (R111). -/
def overlay (s : List Byte) (a : Nat) (t : List Byte) : List Byte := s.take a ++ t ++ s.drop (a + t.length)

/-- `sum(s)`: the exact integer sum of the elements (R11, R99). -/
def byteSum (s : List Byte) : Nat := (s.map BitVec.toNat).sum

/-- The whole parts of length `k` of a sequence, in order: `s[0..k)`, `s[k..2k)`, … (R87, R91). -/
def parts (k : Nat) (s : List Byte) : List (List Byte) :=
  (List.range (s.length / k)).map fun b => seg s (k * b) (k * b + k)

/-! ## Stores -/

/-- Values by number. Canonical: numbers strictly rising. -/
abbrev Cells (α : Type) := List (Nat × α)

/-- The value listed at a number. -/
def Cells.read {α : Type} (m : Cells α) (a : Nat) : Option α := List.lookup a m

/-- Consecutive cells from `a` on. -/
def Cells.run {α : Type} (a : Nat) : List α → Cells α
  | [] => []
  | b :: bs => (a, b) :: Cells.run (a + 1) bs

/-- Write consecutive values from `a` on. -/
def Cells.putRun {α : Type} (m : Cells α) (a : Nat) (bs : List α) : Cells α :=
  m.filter (fun c => decide (c.1 < a)) ++ Cells.run a bs ++ m.filter (fun c => decide (a + bs.length ≤ c.1))

/-- Write one value. -/
def Cells.put {α : Type} (m : Cells α) (a : Nat) (b : α) : Cells α := Cells.putRun m a [b]

/-- Numbers strictly rising. -/
def Cells.rising {α : Type} (m : Cells α) : Bool := decide (m.Pairwise (fun c d => c.1 < d.1))

/-- A buffer: bytes by index, each a `Host.Cell` (R28, R29). -/
abbrev Memory := List Host.Cell

/-- The canonical form of a buffer: indices strictly rising, all below `BUF_CAP`. -/
def Memory.wf (m : Memory) : Bool := Cells.rising m && m.all (fun c => decide (c.1 < Config.bufCap))

end Sys2Proof.Machine
end

