-- ==== Sys2Proof/Machine/Checksum.lean ====
section
/-! DEFINITION. The 7-bit checksum and the frame check (R99, R100, R114). -/

namespace Sys2Proof.Machine

/-- `Csum7(s) = (−sum(s)) mod 128` (R100). -/
def csum7 (s : List Byte) : Byte := BitVec.ofNat 8 ((128 - byteSum s % 128) % 128)

/-- `FrameOK(fr)`: bytes 8 through 153 sum to 0 modulo 128 (R114). -/
def frameOK (fr : List Byte) : Bool := byteSum (seg fr 8 154) % 128 == 0

/-- The index of the first frame that fails the check (R88, R116, R125). -/
def firstBad (frames : List (List Byte)) : Option Nat := frames.findIdx? (fun fr => !frameOK fr)

end Sys2Proof.Machine
end

