-- ==== Sys2Proof/Syntax.lean ====
section
/-! DEFINITION. The instruction set: the six commands of the SXC command set, version 1 (R2, R64). -/

namespace Sys2Proof

/-- One constructor per row of the opcode map (R64). A command word has no register, immediate or mode field (R63), so
no constructor has an argument: operands come from ILEN, PAGE, COUNT and IBUF (R76). -/
inductive Instr where
  /-- SCR: pack 125-byte blocks into 155-byte frames (R90). -/
  | scr
  /-- USCR: check and unpack 155-byte frames (R93). -/
  | uscr
  /-- CHKV: verify the checksum of 155-byte frames (R116). -/
  | chkv
  /-- IDRQ: frame an Identify Request (R103). -/
  | idrq
  /-- DTRQ: frame a Data Request (R107). -/
  | dtrq
  /-- WRPG: frame a Write Page (R111). -/
  | wrpg
  deriving DecidableEq, Repr

end Sys2Proof
end

