-- ==== Sys2Proof/Decode.lean ====
section
/-! DEFINITION. Decoding and encoding of command words (R62..R65). A command word is the 32-bit value in CMD; it is never
laid out in bytes (R40), so the decoder reads the word itself. It is total: every other word is rejected by name. -/

namespace Sys2Proof

/-- One row of the opcode map (R64): a word `w` is this row's when `w &&& mask = word`. -/
structure OpRow where
  mask : Word
  word : Word
  instr : Instr
  deriving DecidableEq, Repr

/-- The opcode map (R64). -/
def opTable : List OpRow :=
  [ ⟨0xFFFFFFFF#32, 0x00000001#32, .scr⟩,
    ⟨0xFFFFFFFF#32, 0x00000002#32, .uscr⟩,
    ⟨0xFFFFFFFF#32, 0x00000003#32, .chkv⟩,
    ⟨0xFFFFFFFF#32, 0x00000010#32, .idrq⟩,
    ⟨0xFFFFFFFF#32, 0x00000011#32, .dtrq⟩,
    ⟨0xFFFFFFFF#32, 0x00000012#32, .wrpg⟩ ]

/-- Why a command word is illegal (R65). -/
inductive DecodeError where
  /-- `RSV` (bits 31:8) is not 0. -/
  | reservedBits (rsv : BitVec 24)
  /-- `RSV` is 0 and `OP` is none of the six opcodes. -/
  | reservedOpcode (op : Byte)
  deriving DecidableEq, Repr

/-- Field `RSV` of a command word, bits 31:8 (R63). -/
def cmdRsv (w : Word) : BitVec 24 := w.extractLsb' 8 24

/-- Field `OP` of a command word, bits 7:0 (R63). -/
def cmdOp (w : Word) : Byte := w.extractLsb' 0 8

/-- Decode a command word: the row it equals under the row's mask (R64), or the name of what makes it illegal (R65). -/
def decode (w : Word) : Except DecodeError Instr :=
  match opTable.find? (fun r => w &&& r.mask == r.word) with
  | some r => .ok r.instr
  | none => if cmdRsv w ≠ 0 then .error (.reservedBits (cmdRsv w)) else .error (.reservedOpcode (cmdOp w))

/-- The command word of an instruction (R64). -/
def encode : Instr → Word
  | .scr  => 0x00000001#32
  | .uscr => 0x00000002#32
  | .chkv => 0x00000003#32
  | .idrq => 0x00000010#32
  | .dtrq => 0x00000011#32
  | .wrpg => 0x00000012#32

/-- The instruction an opcode-table word stands for: its bits above `nbits` are 0, and it is one whole 32-bit word
(R62, log 5: there is no other length, so a number that needs more bits is no command word). -/
def decodeTableWord (nbits w : Nat) : Option Instr :=
  let v := w % 2 ^ nbits
  if v < 2 ^ 32 then (decode (BitVec.ofNat 32 v)).toOption else none

end Sys2Proof
end

