-- ==== Sys2Proof/Machine/Script.lean ====
section
/-! DEFINITION. Host scripts: the notation of R77 as abstract syntax, and the pseudo-instructions of R78 as the statement
lists they expand to. Labels and host variables are numbers (log 13). -/

namespace Sys2Proof.Machine

/-- `<addr>` of a statement: a number, or a name spelling an address of the map (R77, R49). -/
inductive HostAddr where
  | number (a : BusAddr)
  | cmd | status | ilen | olen | page | count | errblk
  | ibuf (i : Nat)
  | obuf (i : Nat)
  deriving DecidableEq, Repr

/-- The bus address a name spells (R49). R49 gives `IBUF[i]` and `OBUF[i]` for i in 0..2479 only; that a larger i spells
the window's base plus 4i, modulo 2^16, is the model's choice (log 21), and `HostAddr.wellFormed` refuses such a name. -/
def HostAddr.addr : HostAddr → BusAddr
  | .number a => a
  | .cmd => 0x0000#16
  | .status => 0x0004#16
  | .ilen => 0x0008#16
  | .olen => 0x000C#16
  | .page => 0x0010#16
  | .count => 0x0014#16
  | .errblk => 0x0018#16
  | .ibuf i => BitVec.ofNat 16 (0x1000 + 4 * i)
  | .obuf i => BitVec.ofNat 16 (0x4000 + 4 * i)

/-- A host variable `$x` (R77), by number. -/
abbrev HostVar := Nat

/-- A label `name:` (R77), by number. -/
abbrev Label := Nat

/-- The value of a write: a number or a kept value (R77). -/
inductive HostValue where
  | lit (v : Word)
  | var (x : HostVar)
  deriving DecidableEq, Repr

/-- One line of a host script (R77). `W` and `R` are the accesses of size 4; a HOST may also make an access of another
size, which is a bus error (R47), so the size is an argument (log 19). -/
inductive Stmt where
  /-- `name:` -/
  | label (l : Label)
  /-- `W <addr>, <value>` and `W <addr>, $x` -/
  | write (a : HostAddr) (size : Nat) (v : HostValue)
  /-- `R <addr>` and `R <addr> -> $x` -/
  | read (a : HostAddr) (size : Nat) (dst : Option HostVar)
  /-- `IF $x & <mask> GOTO <label>` -/
  | branch (x : HostVar) (mask : Word) (l : Label)
  /-- `CHECK $x == <value>` -/
  | check (x : HostVar) (v : Word)
  deriving DecidableEq, Repr

/-- A host script (R77). -/
abbrev Script := List Stmt

/-- `W <addr>, <value>` (R77). -/
def Script.w (a : HostAddr) (v : Word) : Stmt := .write a 4 (.lit v)

/-- `R <addr> -> $x` (R77). -/
def Script.r (a : HostAddr) (x : HostVar) : Stmt := .read a 4 (some x)

/-- `$s` of `WAIT` (R78). -/
def Script.varS : HostVar := 0
/-- `$t` of `COPY` (R78). -/
def Script.varT : HostVar := 1
/-- `$e` of `EXPECT` (R78). -/
def Script.varE : HostVar := 2

/-- `CMD <MNEM>` (R78). -/
def Script.cmd (i : Instr) : Script := [Script.w .cmd (encode i)]

/-- `WAIT`, with its fresh label (R78). -/
def Script.wait (l : Label) : Script :=
  [.label l, Script.r .status Script.varS, .branch Script.varS 1#32 l]

/-- `RUN <MNEM>` (R78). -/
def Script.run (i : Instr) (l : Label) : Script := Script.cmd i ++ Script.wait l

/-- `LOAD [b0, .., b(n−1)]` (R78). R78 gives the values no width; that they are bytes is the model's choice (log 22). -/
def Script.load (bs : List Byte) : Script :=
  bs.mapIdx (fun i b => Script.w (.ibuf i) (b.setWidth 32)) ++ [Script.w .ilen (BitVec.ofNat 32 bs.length)]

/-- `FILL v, n` (R78). R78 gives v no width; that it is a byte is the model's choice (log 22). -/
def Script.fill (v : Byte) (n : Nat) : Script := Script.load (List.replicate n v)

/-- `COPY s, d, n` (R78). It does not write ILEN. -/
def Script.copy (src dst n : Nat) : Script :=
  (List.range n).flatMap fun i =>
    [Script.r (.obuf (src + i)) Script.varT, .write (.ibuf (dst + i)) 4 (.var Script.varT)]

/-- `EXPECT <addr>, <value>` (R78). -/
def Script.expect (a : HostAddr) (v : Word) : Script := [Script.r a Script.varE, .check Script.varE v]

end Sys2Proof.Machine
end

