-- ==== Sys2Proof/Machine/State.lean ====
section
/-! DEFINITION. The state of the machine: the block's registers and buffers (R16), the FAULT mark (R34), the HOST (R77),
and the model's own two fields (log 2, log 3). Plain data throughout. -/

namespace Sys2Proof.Machine

/-- Result codes (R121). Codes 6..15 are never produced, so STATUS.RESULT has these six values (R122). -/
inductive ResultCode where
  | ok | checksumError | invalidPageSize | lengthError | operandRange | illegalCommand
  deriving DecidableEq, Repr

/-- The two HOST access errors that stop the model (R131). Both are SAFE: the machine stops where hardware goes on. -/
inductive Fault where
  /-- Raised by a HOST access that is misaligned, of size ≠ 4, or at an unmapped address (R42, R47, R50). Safe: hardware
  answers with a bus-error response and changes no state; the model stops. -/
  | busError (addr : BusAddr)
  /-- Raised by a HOST access other than a STATUS read while BUSY = 1 (R146). Safe: hardware may do anything; the model
  stops. -/
  | hostHazard (addr : BusAddr)
  deriving DecidableEq, Repr

/-- Why a step has no meaning. -/
inductive Refusal where
  /-- Raised by `exec` alone, for an instruction that has no meaning yet. No arm of this model raises it. Safe: the
  machine stops. -/
  | notModelled (mnemonic : String)
  deriving DecidableEq, Repr

/-- Who moves next: the two agents of R15, and the reset input of R141. -/
inductive Turn where
  | host | engine | reset
  deriving DecidableEq, Repr

/-- The direction of a bus access (R12). -/
inductive Dir where
  | read | write
  deriving DecidableEq, Repr

/-- One bus transaction: direction, address and data (R77), as 95_test_vectors.md section 3 writes them. -/
inductive Transaction where
  /-- `W addr data` -/
  | write (addr : BusAddr) (data : Word)
  /-- `R addr → data` -/
  | read (addr : BusAddr) (data : Word)
  /-- `W addr data` answered by a fault instead of being made (log 18) -/
  | refusedWrite (addr : BusAddr) (data : Word) (f : Fault)
  /-- `R addr` answered by a fault instead of data: P4's `R 0x0002` → bus error (log 18) -/
  | refusedRead (addr : BusAddr) (f : Fault)
  deriving DecidableEq, Repr

/-- The HOST: a script and where it stands in it (R77, R153). None of this is block state. -/
structure HostAgent where
  /-- The program (R77). -/
  script : Script
  /-- The number of lines already passed. -/
  pc : Nat
  /-- The kept values `$x` (R77), by number, canonical. -/
  vars : Cells Word
  /-- A CHECK has failed, or a GOTO named no label: the HOST takes no further step (R153, log 11). -/
  failed : Bool
  /-- The transactions so far, refused ones among them, the last first (R77, log 18). -/
  trace : List Transaction
  deriving DecidableEq, Repr

/-- The state. -/
structure State where
  /-- CMD, all 32 bits (R19). -/
  cmd : Word
  /-- STATUS.BUSY, bit 0 (R21). -/
  busy : Bool
  /-- STATUS.DONE, bit 1 (R21). -/
  done : Bool
  /-- STATUS.RESULT, bits 7:4 (R21, R121). -/
  result : ResultCode
  /-- ILEN.LEN, bits 15:0 (R23). -/
  ilen : Half
  /-- OLEN.LEN, bits 15:0 (R24). -/
  olen : Half
  /-- PAGE.PAGE, bits 15:0 (R25). -/
  page : Half
  /-- COUNT.COUNT, bits 15:0 (R26). -/
  count : Half
  /-- ERRBLK.BLK, bits 15:0 (R27). -/
  errblk : Half
  /-- IBUF: the bytes the HOST has written since reset, by index (R28). -/
  ibuf : Memory
  /-- OBUF: the bytes commands have written, by index; an index ≥ OLEN reads as draw() whatever is listed (R29, log 14). -/
  obuf : Memory
  /-- FAULT, the model-level mark (R34). -/
  fault : Option Fault
  /-- The model's own: the position of the next draw() (R12, log 3). -/
  draws : Nat
  /-- The HOST and its script (R77). -/
  host : HostAgent
  /-- The model's own: who moves in the next steps; when it has run out, the ENGINE if BUSY, else the HOST (log 2). -/
  turns : List Turn
  deriving DecidableEq, Repr

/-- A HOST with no script (log 1). -/
def HostAgent.idle : HostAgent := ⟨[], 0, [], false, []⟩

/-- The state right after reset (R35): every register 0, no buffer byte has a value, no fault at the start of a run. -/
def State.reset : State where
  cmd := 0
  busy := false
  done := false
  result := .ok
  ilen := 0
  olen := 0
  page := 0
  count := 0
  errblk := 0
  ibuf := []
  obuf := []
  fault := none
  draws := 0
  host := .idle
  turns := []

end Sys2Proof.Machine
end

