-- ==== Sys2Proof/Machine/Flags.lean ====
section
/-! DEFINITION. The flags of the block: BUSY, DONE and RESULT, and the STATUS word they make (R21, R22). The block has no
other flag. -/

namespace Sys2Proof.Machine

/-- The number of a result code (R121). -/
def ResultCode.code : ResultCode → BitVec 4
  | .ok => 0
  | .checksumError => 1
  | .invalidPageSize => 2
  | .lengthError => 3
  | .operandRange => 4
  | .illegalCommand => 5

/-- The STATUS word: bits 31:8 zero, RESULT in 7:4, bits 3:2 zero, DONE in 1, BUSY in 0 (R21). -/
def statusWord (busy done : Bool) (r : ResultCode) : Word :=
  0#24 ++ r.code ++ 0#2 ++ BitVec.ofBool done ++ BitVec.ofBool busy

/-- STATUS as a HOST read returns it (R21). -/
def State.status (s : State) : Word := statusWord s.busy s.done s.result

end Sys2Proof.Machine
end

