-- ==== Sys2Proof/Machine/Operands.lean ====
section
/-! DEFINITION. Operands: the IBUF bytes a command reads (R76), the 14-bit split of wire operands (R72, R73), and the
address map, by which a HOST access names what it reads or writes (R49). -/

namespace Sys2Proof.Machine

/-! ## IBUF as an operand -/

/-- One buffer byte: the value it holds, or the draw at position `d` (R28, R29). -/
def byteOrDraw (m : Memory) (i d : Nat) : Byte := (Cells.read m i).getD (Config.drawByte d)

/-- `IBUF[0..n)` as one command reads it: each byte once, each unwritten byte a draw of its own (R28, R76; log 4). -/
def State.input (s : State) (n : Nat) : List Byte :=
  (List.range n).map fun i => byteOrDraw s.ibuf i (s.draws + i)

/-- The state after `n` draw positions are used up (log 3). -/
def State.drawn (n : Nat) (s : State) : State := { s with draws := s.draws + n }

/-! ## 14-bit operands -/

/-- `Split14(v) = [v[13:7], v[6:0]]`, the high digit first (R72, R39). -/
def split14 (v : Nat) : List Byte := [BitVec.ofNat 8 (v / 128 % 128), BitVec.ofNat 8 (v % 128)]

/-! ## The address map -/

/-- What a mapped address names (R49). -/
inductive Target where
  | cmd | status | ilen | olen | page | count | errblk
  | ibuf (i : Nat)
  | obuf (i : Nat)
  deriving DecidableEq, Repr

/-- The address map (R49): what a word-aligned address names, or nothing where the map has nothing (R50). -/
def target? (a : BusAddr) : Option Target :=
  let n := a.toNat
  if n = 0x0000 then some .cmd
  else if n = 0x0004 then some .status
  else if n = 0x0008 then some .ilen
  else if n = 0x000C then some .olen
  else if n = 0x0010 then some .page
  else if n = 0x0014 then some .count
  else if n = 0x0018 then some .errblk
  else if 0x1000 ≤ n ∧ n < 0x36C0 then some (.ibuf ((n - 0x1000) / 4))
  else if 0x4000 ≤ n ∧ n < 0x66C0 then some (.obuf ((n - 0x4000) / 4))
  else none

/-- The 32-bit value a read of this place returns, reserved bits 0 (R51, R52, R53); `s.draws` is the draw it takes. -/
def State.readTarget (s : State) : Target → Word
  | .cmd => s.cmd
  | .status => s.status
  | .ilen => s.ilen.setWidth 32
  | .olen => s.olen.setWidth 32
  | .page => s.page.setWidth 32
  | .count => s.count.setWidth 32
  | .errblk => s.errblk.setWidth 32
  | .ibuf i => (byteOrDraw s.ibuf i s.draws).setWidth 32
  | .obuf i => (if i < s.olen.toNat then byteOrDraw s.obuf i s.draws else Config.drawByte s.draws).setWidth 32

/-- How many draw positions a read of this place uses up (log 3). -/
def Target.drawCost : Target → Nat
  | .ibuf _ => 1
  | .obuf _ => 1
  | .cmd => 0
  | .status => 0
  | .ilen => 0
  | .olen => 0
  | .page => 0
  | .count => 0
  | .errblk => 0

end Sys2Proof.Machine
end

