-- ==== Sys2Proof/Machine/Ops.lean ====
section
/-! DEFINITION. The shared operations: starting a command (R20), writing an output and finishing (R126), the reset input
(R141), and the HOST's bus accesses with their faults (R42, R47, R50..R53, R131, R132, R146). The block takes no trap and
returns from none (R119, R129): `finish` is the one way an error ends a command. -/

namespace Sys2Proof.Machine

/-! ## Commands -/

/-- Command start: what a write of CMD does while BUSY = 0 (R20). -/
def State.startCommand (v : Word) (s : State) : State :=
  { s with cmd := v, busy := true, done := false, result := .ok }

/-- `for i: OBUF[i] <- out[i]; OLEN.LEN <- len(out)` (R90, R93, R103, R107, R111). -/
def State.writeOutput (out : List Byte) (s : State) : State :=
  { s with obuf := Cells.putRun s.obuf 0 out, olen := BitVec.ofNat 16 out.length }

/-- `OLEN.LEN <- 0` with no OBUF byte written (R116). -/
def State.clearOlen (s : State) : State := { s with olen := 0 }

/-- `ERRBLK.BLK <- b` (R93, R116). -/
def State.setErrblk (b : Nat) (s : State) : State := { s with errblk := BitVec.ofNat 16 b }

/-- `finish(code)` (R126): on failure OLEN becomes 0 and no OBUF byte keeps a value; ERRBLK becomes 0 but for
CHECKSUM_ERROR, which has set it; then RESULT, DONE and BUSY. -/
def State.finish (code : ResultCode) (s : State) : State :=
  { s with
    olen := if code = .ok then s.olen else 0
    obuf := if code = .ok then s.obuf else []
    errblk := if code = .checksumError then s.errblk else 0
    result := code
    done := true
    busy := false }

/-- The ENGINE step of an illegal command word: nothing but `finish(ILLEGAL_COMMAND)` (R65). -/
def execIllegal (s : State) : State := s.finish .illegalCommand

/-! ## Reset -/

/-- The reset input (R141, R142, R35): every register 0, no buffer byte keeps a value, a command in flight is abandoned.
FAULT is not cleared, and the HOST is not part of the block (log 17). -/
def State.resetInput (s : State) : State :=
  { s with
    cmd := 0, busy := false, done := false, result := .ok
    ilen := 0, olen := 0, page := 0, count := 0, errblk := 0
    ibuf := [], obuf := [] }

/-! ## Bus accesses -/

/-- The fault an access raises, if any: the address and size check first (R132), then the BUSY hazard (R146). -/
def State.accessFault (s : State) (dir : Dir) (a : BusAddr) (size : Nat) : Option Fault :=
  if size ≠ 4 ∨ a.toNat % 4 ≠ 0 then some (.busError a)
  else
    match target? a with
    | none => some (.busError a)
    | some t => if s.busy ∧ ¬(dir = .read ∧ t = .status) then some (.hostHazard a) else none

/-- What a write of `v` to this place does (R20, R46, R51..R53, R32): CMD starts a command, ILEN, PAGE and COUNT keep
`v[15:0]`, an IBUF word keeps `v[7:0]`, and the read-only places ignore it. -/
def State.writeTarget (t : Target) (v : Word) (s : State) : State :=
  match t with
  | .cmd => s.startCommand v
  | .status => s
  | .ilen => { s with ilen := v.setWidth 16 }
  | .olen => s
  | .page => { s with page := v.setWidth 16 }
  | .count => { s with count := v.setWidth 16 }
  | .errblk => s
  | .ibuf i => { s with ibuf := Cells.put s.ibuf i (v.setWidth 8) }
  | .obuf _ => s

/-- Record a fault: no other state changes, and no further step is taken (R131, R34). -/
def State.recordFault (f : Fault) (s : State) : State := { s with fault := some f }

/-- `MemWrite(a, 4, v)` at an address that raises no fault. -/
def State.busWrite (a : BusAddr) (v : Word) (s : State) : State :=
  match target? a with
  | some t => s.writeTarget t v
  | none => s

/-- The word `MemRead(a, 4)` returns, at an address that raises no fault. -/
def State.busRead (s : State) (a : BusAddr) : Word :=
  match target? a with
  | some t => s.readTarget t
  | none => 0

/-- The state after `MemRead(a, 4)`: a read has no side effect (R45) but that a window byte takes a draw position. -/
def State.afterRead (a : BusAddr) (s : State) : State :=
  match target? a with
  | some t => s.drawn t.drawCost
  | none => s

end Sys2Proof.Machine
end

