-- ==== Sys2Proof/Machine/Packer.lean ====
section
/-! DEFINITION. The packer family: the scrambler and its reverse (R79..R88), and the commands SCR (R90) and USCR (R93). -/

namespace Sys2Proof.Machine

/-! ## Scrambling -/

/-- `n_g`: data bytes of group `g` (R82). -/
def groupSize (g : Nat) : Nat := if g < Config.nFull then Config.group else Config.lastG

/-- The MSB byte of a group: bit 6−k is bit 7 of the byte at position k (R68, R83). -/
def msbByte (grp : List Byte) : Byte :=
  BitVec.ofNat 8 (grp.mapIdx fun k b => (b.getLsbD 7).toNat <<< (6 - k)).sum

/-- `PackGroup` (R83). -/
def packGroup (grp : List Byte) : List Byte := msbByte grp :: grp.map (· &&& 0x7F#8)

/-- `blk[7g .. 7g + n_g)` (R82). -/
def groupOf (blk : List Byte) (g : Nat) : List Byte :=
  seg blk (Config.group * g) (Config.group * g + groupSize g)

/-- `PackBlock` (R84): placeholder, groups 0..17, trailer. -/
def packBlock (blk : List Byte) : List Byte :=
  List.replicate Config.hdrPh 0 ++ (List.range (Config.nFull + 1)).flatMap (fun g => packGroup (groupOf blk g))
    ++ List.replicate Config.trailer 0

/-- `Scramble` (R87). -/
def scramble (s : List Byte) : List Byte := (parts Config.blkIn s).flatMap packBlock

/-! ## Unscrambling -/

/-- `UnpackByte(M, d, k) = d | ((M << (k + 1)) & 0x80)` (R85). Only bit 7 of the shifted byte is kept, so 8 bits are
enough for it (log 7). `d` is not masked (R92). -/
def unpackByte (m d : Byte) (k : Nat) : Byte := d ||| ((m <<< (k + 1)) &&& 0x80#8)

/-- `UnpackFrame` (R86). -/
def unpackFrame (fr : List Byte) : List Byte :=
  (List.range Config.blkIn).map fun j =>
    unpackByte (byteAt fr (10 + 8 * (j / 7))) (byteAt fr (11 + 8 * (j / 7) + j % 7)) (j % 7)

/-- What `Unscramble` returns (R88). -/
inductive Unscrambled where
  | ok (out : List Byte)
  | bad (b : Nat)
  deriving DecidableEq, Repr

/-- `Unscramble` (R88): `Bad` of the first failing frame, else the unpacked frames. -/
def unscramble (s : List Byte) : Unscrambled :=
  match firstBad (parts Config.frame s) with
  | some b => .bad b
  | none => .ok ((parts Config.frame s).flatMap unpackFrame)

/-! ## Commands -/

/-- SCR accepts this length (R80). -/
def scrLengthOK (n : Nat) : Bool := n % Config.blkIn == 0 && decide (n ≤ Config.maxBlocks * Config.blkIn)

/-- USCR and CHKV accept this length (R81). -/
def frameLengthOK (n : Nat) : Bool := n % Config.frame == 0 && decide (n ≤ Config.bufCap)

/-- SCR (R90). -/
def execScr (s : State) : Host.Outcome State Fault Refusal :=
  let n := s.ilen.toNat
  if scrLengthOK n then .next (((s.drawn n).writeOutput (scramble (s.input n))).finish .ok)
  else .next (s.finish .lengthError)

/-- USCR (R93). -/
def execUscr (s : State) : Host.Outcome State Fault Refusal :=
  let n := s.ilen.toNat
  if frameLengthOK n then
    match unscramble (s.input n) with
    | .bad b => .next (((s.drawn n).setErrblk b).finish .checksumError)
    | .ok out => .next (((s.drawn n).writeOutput out).finish .ok)
  else .next (s.finish .lengthError)

end Sys2Proof.Machine
end

