-- ==== Sys2Proof/Machine/Framer.lean ====
section
/-! DEFINITION. The framer and checksum family: IDRQ (R103), DTRQ (R107), WRPG (R111) and CHKV (R116). -/

namespace Sys2Proof.Machine

/-! ## Messages -/

/-- The Identify Request message: exactly `ID_REQ[0..4]` (R71). -/
def identifyRequest : List Byte := Config.idReqBytes

/-- The address and length bytes of a Data Request (R106). -/
def requestFields (p c : Nat) : List Byte := split14 p ++ split14 (c - 1)

/-- The Data Request message (R70, R107, R108). -/
def dataRequest (p c : Nat) : List Byte :=
  Config.rqHdrBytes ++ requestFields p c ++ [csum7 (requestFields p c)] ++ [Config.eox]

/-- The Write Page message made from the frame `f` (R69, R111, R112): header, page address, then the checksum of bytes
8..152 as they now stand, then the terminator. -/
def writePage (f : List Byte) (p : Nat) : List Byte :=
  let f := overlay f Config.hdrOff Config.wrHdrBytes
  let f := overlay f Config.addrOff (split14 p)
  let f := overlay f Config.csumOff [csum7 (seg f 8 153)]
  overlay f Config.eoxOff [Config.eox]

/-! ## Commands -/

/-- PAGE is out of range for the 14-bit split (R105, R110). -/
def pageTooLarge (p : Nat) : Bool := decide (p > 0x3FFF)

/-- COUNT is out of range for a Data Request (R105). -/
def countOutOfRange (c : Nat) : Bool := c == 0 || decide (c > 0x4000)

/-- IDRQ (R103). -/
def execIdrq (s : State) : Host.Outcome State Fault Refusal :=
  .next ((s.writeOutput identifyRequest).finish .ok)

/-- DTRQ (R107). -/
def execDtrq (s : State) : Host.Outcome State Fault Refusal :=
  let p := s.page.toNat
  let c := s.count.toNat
  if pageTooLarge p || countOutOfRange c then .next (s.finish .operandRange)
  else .next ((s.writeOutput (dataRequest p c)).finish .ok)

/-- WRPG (R111): the size rule first, then the page range (R109, R110, R125). -/
def execWrpg (s : State) : Host.Outcome State Fault Refusal :=
  let p := s.page.toNat
  if s.ilen.toNat ≠ Config.frame then .next (s.finish .invalidPageSize)
  else if pageTooLarge p then .next (s.finish .operandRange)
  else .next (((s.drawn Config.frame).writeOutput (writePage (s.input Config.frame) p)).finish .ok)

/-- CHKV (R116): OLEN becomes 0 and no OBUF byte is written. -/
def execChkv (s : State) : Host.Outcome State Fault Refusal :=
  let n := s.ilen.toNat
  if frameLengthOK n then
    match firstBad (parts Config.frame (s.input n)) with
    | some b => .next (((s.drawn n).setErrblk b).finish .checksumError)
    | none => .next ((s.drawn n).clearOlen.finish .ok)
  else .next (s.finish .lengthError)

end Sys2Proof.Machine
end

