-- ==== Sys2Proof/Machine/Dispatch.lean ====
section
/-! DEFINITION. The meaning of each instruction, one arm per constructor: the ENGINE's step for a decoded command (R15). -/

namespace Sys2Proof.Machine

def exec (i : Instr) (s : State) : Host.Outcome State Fault Refusal :=
  match i with
  | .scr => Sys2Proof.Machine.execScr s
  | .uscr => Sys2Proof.Machine.execUscr s
  | .chkv => Sys2Proof.Machine.execChkv s
  | .idrq => Sys2Proof.Machine.execIdrq s
  | .dtrq => Sys2Proof.Machine.execDtrq s
  | .wrpg => Sys2Proof.Machine.execWrpg s

end Sys2Proof.Machine
end

