-- ==== Sys2Proof/Machine/Engine.lean ====
section
/-! DEFINITION. The ENGINE's step (R15), and who moves next (R55, R150). -/

namespace Sys2Proof.Machine

/-- The ENGINE's step: with BUSY = 1 it runs the command in CMD, whole; an illegal word finishes with ILLEGAL_COMMAND
(R65); with BUSY = 0 it has no step, and its turn passes (R15, log 16). -/
def engineStep (s : State) : Host.Outcome State Fault Refusal :=
  if s.busy then
    match decode s.cmd with
    | .ok i => exec i s
    | .error _ => .next (execIllegal s)
  else .next s

/-- Who moves next: the head of `turns`; when that has run out, the ENGINE if BUSY, else the HOST (R150, log 2). -/
def State.nextTurn (s : State) : Turn :=
  match s.turns with
  | t :: _ => t
  | [] => if s.busy then .engine else .host

/-- The state once the turn is taken. -/
def State.popTurn (s : State) : State := { s with turns := s.turns.tail }

/-- The command word `w` latched as a CMD write latches it (R20), the ENGINE to move next, and no fault on record: what
stands for the load of one command from outside (log 10). -/
def State.latchCommand (w : Word) (s : State) : State :=
  { s.startCommand w with fault := none, turns := .engine :: s.turns }

end Sys2Proof.Machine
end

