-- ==== Sys2Proof/Machine/HostStep.lean ====
section
/-! DEFINITION. The HOST's step: one statement of its script (R77), each bus access one whole transaction (R44). -/

namespace Sys2Proof.Machine

/-- The first statement that is no label, with the number of lines passed once it has run. -/
def Script.fetchFrom : Script → Nat → Option (Stmt × Nat)
  | [], _ => none
  | .label _ :: rest, n => Script.fetchFrom rest (n + 1)
  | st :: _, n => some (st, n + 1)

/-- Where a label stands: of a label defined twice, the first place. R77 does not say where a GOTO to such a label lands;
the first is the model's choice (log 20). -/
def Script.find? (p : Script) (l : Label) : Option Nat := p.findIdx? (· == .label l)

/-- The statement the HOST runs next: none when it has run its last one (R153) or has failed (log 11). -/
def HostAgent.fetch (h : HostAgent) : Option (Stmt × Nat) :=
  if h.failed then none else Script.fetchFrom (h.script.drop h.pc) h.pc

/-- The value of `$x`; free until the script assigns it (log 12). -/
def HostAgent.var (h : HostAgent) (x : HostVar) : Word := (Cells.read h.vars x).getD (Config.unsetHostVar x)

/-- The value a write sends (R77). -/
def HostAgent.value (h : HostAgent) : HostValue → Word
  | .lit v => v
  | .var x => h.var x

/-- `$x` keeps a value, where there is an `x` (R77). -/
def HostAgent.keep (h : HostAgent) (dst : Option HostVar) (v : Word) : HostAgent :=
  match dst with
  | some x => { h with vars := Cells.put h.vars x v }
  | none => h

/-- A transaction joins the HOST's sequence (R77). -/
def HostAgent.note (h : HostAgent) (t : Transaction) : HostAgent := { h with trace := t :: h.trace }

/-- A transaction is made, and the HOST goes on at line `pc` (R77). -/
def HostAgent.made (h : HostAgent) (pc : Nat) (t : Transaction) : HostAgent := { h.note t with pc := pc }

/-- An access is refused: the fault is recorded, the refused transaction joins the HOST's sequence (95_test_vectors.md P4,
step 6), the HOST stays at its statement, and nothing else changes (R131, logs 8 and 18). -/
def State.refuse (f : Fault) (t : Transaction) (s : State) : State := { s.recordFault f with host := s.host.note t }

/-- `IF $x & <mask> GOTO <label>`: taken when `($x & mask) ≠ 0` (R77). -/
def HostAgent.branch (h : HostAgent) (x : HostVar) (mask : Word) (l : Label) (pc : Nat) : HostAgent :=
  if h.var x &&& mask ≠ 0 then
    match Script.find? h.script l with
    | some at_ => { h with pc := at_ }
    | none => { h with failed := true }
  else { h with pc := pc }

/-- `CHECK $x == <value>` (R77, R153). -/
def HostAgent.check (h : HostAgent) (x : HostVar) (v : Word) (pc : Nat) : HostAgent :=
  if h.var x = v then { h with pc := pc } else { h with pc := pc, failed := true }

/-- A bus write by the HOST: it is refused with a fault, or it is made (R77, R131). -/
def hostWrite (a : BusAddr) (size : Nat) (v : Word) (pc : Nat) (s : State) : State :=
  match s.accessFault .write a size with
  | some f => s.refuse f (.refusedWrite a v f)
  | none => { s.busWrite a v with host := s.host.made pc (.write a v) }

/-- A bus read by the HOST: it is refused with a fault, or the value is returned and kept (R77, R131). -/
def hostRead (a : BusAddr) (size : Nat) (dst : Option HostVar) (pc : Nat) (s : State) : State :=
  match s.accessFault .read a size with
  | some f => s.refuse f (.refusedRead a f)
  | none => { s.afterRead a with host := (s.host.made pc (.read a (s.busRead a))).keep dst (s.busRead a) }

/-- One statement of the script, the HOST at line `pc` afterwards (R77). -/
def hostStmt (st : Stmt) (pc : Nat) (s : State) : State :=
  match st with
  | .label _ => { s with host := { s.host with pc := pc } }
  | .write a size v => hostWrite a.addr size (s.host.value v) pc s
  | .read a size dst => hostRead a.addr size dst pc s
  | .branch x mask l => { s with host := s.host.branch x mask l pc }
  | .check x v => { s with host := s.host.check x v pc }

/-- The HOST's step. A HOST with no statement left has no step, and its turn passes (log 16). -/
def hostStep (s : State) : State :=
  match s.host.fetch with
  | some (st, pc) => hostStmt st pc s
  | none => s

end Sys2Proof.Machine
end

