-- ==== Sys2Proof/Machine/Step.lean ====
section
/-! DEFINITION. One step of the whole machine: the reset input, the HOST or the ENGINE moves (R15, R141); once a fault is
on record no step is taken (R34). -/

namespace Sys2Proof.Machine

/-- One step. -/
def step (s : State) : Host.Outcome State Fault Refusal :=
  match s.fault with
  | some f => .fault f
  | none =>
    match s.nextTurn with
    | .reset => .next s.popTurn.resetInput
    | .host => .next (hostStep s.popTurn)
    | .engine => engineStep s.popTurn

/-- `s` with the opcode-table word `w` where the next step takes its command: latched in CMD (log 10). -/
def State.withFetchWord (s : State) (nbits w : Nat) : State :=
  s.latchCommand (BitVec.ofNat 32 (w % 2 ^ nbits))

end Sys2Proof.Machine
end

