-- ==== Sys2Proof/Safety.lean ====
section
/-! DEFINITION. What claims about runs are stated in: the end of a host program (R153), the legal values of the status
fields and result registers (R21, R24, R27, R123), and the invariant of the machine. -/

namespace Sys2Proof.Machine

/-- The HOST has run its last statement, and every CHECK has held (R153). -/
def HostAgent.finished (h : HostAgent) : Bool := h.fetch.isNone && !h.failed

/-- A host program has ended successfully (R153). -/
def State.endsWell (s : State) : Bool := s.host.finished && !s.busy && s.fault.isNone

/-- A host program has ended badly (R153): a fault is recorded or a CHECK has failed. (The third case of R153, waiting
with no ENGINE step enabled, cannot happen.) A run whose GOTO names no label counts as ending badly too, which R153 does
not list: that is the model's choice (log 11). -/
def State.endsBadly (s : State) : Bool := s.fault.isSome || s.host.failed

/-- The result codes a command can finish with (R123). -/
def instrResults : Instr → List ResultCode
  | .scr => [.ok, .lengthError]
  | .uscr => [.ok, .lengthError, .checksumError]
  | .chkv => [.ok, .lengthError, .checksumError]
  | .idrq => [.ok]
  | .dtrq => [.ok, .operandRange]
  | .wrpg => [.ok, .invalidPageSize, .operandRange]

/-- The result codes a command word can finish with (R123). -/
def wordResults (w : Word) : List ResultCode :=
  match decode w with
  | .ok i => instrResults i
  | .error _ => [.illegalCommand]

/-- The invariant of the machine. -/
structure State.Inv (s : State) : Prop where
  /-- IBUF is in canonical form. -/
  ibuf_wf : Memory.wf s.ibuf = true
  /-- OBUF is in canonical form. -/
  obuf_wf : Memory.wf s.obuf = true
  /-- BUSY = 1 implies DONE = 0 and RESULT = 0 (R21). -/
  busy_legal : s.busy = true → s.done = false ∧ s.result = .ok
  /-- DONE = 0 and BUSY = 0 only after reset, before the first command (R21): the result registers are then 0. -/
  idle_legal : s.busy = false → s.done = false → s.cmd = 0 ∧ s.result = .ok ∧ s.olen = 0 ∧ s.errblk = 0
  /-- A finished command's RESULT is one its command word can finish with (R123). -/
  result_legal : s.done = true → s.result ∈ wordResults s.cmd
  /-- OLEN never exceeds BUF_CAP (R24). -/
  olen_le : s.olen.toNat ≤ 2480
  /-- OBUF[0..OLEN) holds the output of the last successful command (R29): every byte of it has a value. -/
  obuf_full : ∀ j, j < s.olen.toNat → (Cells.read s.obuf j).isSome = true
  /-- ERRBLK is in 0..15 (R27). -/
  errblk_le : s.errblk.toNat ≤ 15
  /-- ERRBLK is 0 after every result but CHECKSUM_ERROR (R27). -/
  errblk_zero : s.done = true → s.result ≠ .checksumError → s.errblk = 0
  /-- A failed command leaves OLEN = 0 (R24). -/
  failed_olen : s.result ≠ .ok → s.olen = 0

end Sys2Proof.Machine
end

