-- ==== Sys2Proof/WellFormed.lean ====
section
/-! DEFINITION. What is well-formed: instructions (none has a field, so there is nothing to refuse), command words
(R63..R65), and host scripts (R77). -/

namespace Sys2Proof

/-- Every instruction is well-formed: a command word has no operand field (R63). -/
def Instr.wellFormed : Instr → Bool
  | .scr => true
  | .uscr => true
  | .chkv => true
  | .idrq => true
  | .dtrq => true
  | .wrpg => true

/-- A legal command word: `RSV` is 0 and `OP` is one of the six opcodes (R63, R65). -/
def legalCommandWord (w : Word) : Bool :=
  cmdRsv w == 0 && [0x01#8, 0x02#8, 0x03#8, 0x10#8, 0x11#8, 0x12#8].contains (cmdOp w)

namespace Machine

/-- A name `IBUF[i]` or `OBUF[i]` spells an address of the map only for i in 0..2479 (R49, R77). What the machine does
with a name refused here is the model's choice (log 21). -/
def HostAddr.wellFormed : HostAddr → Bool
  | .ibuf i => decide (i < 2480)
  | .obuf i => decide (i < 2480)
  | .number _ => true
  | .cmd => true
  | .status => true
  | .ilen => true
  | .olen => true
  | .page => true
  | .count => true
  | .errblk => true

/-- The label a line of a script defines. -/
def Stmt.label? : Stmt → Option Label
  | .label l => some l
  | .write _ _ _ => none
  | .read _ _ _ => none
  | .branch _ _ _ => none
  | .check _ _ => none

/-- The labels a script defines. -/
def Script.labels (p : Script) : List Label := p.filterMap Stmt.label?

/-- A statement of a script: addresses well-formed and accesses of size 4 (R77, R49), and a GOTO only to a label the
script has (the model's choice: log 11). -/
def Stmt.wellFormed (p : Script) : Stmt → Bool
  | .label _ => true
  | .write a size _ => a.wellFormed && size == 4
  | .read a size _ => a.wellFormed && size == 4
  | .branch _ _ l => (Script.labels p).contains l
  | .check _ _ => true

/-- A well-formed script: every statement is, and no label stands twice. R77 does not say that labels are unique; refusing
a script that repeats one is the model's choice (log 20). -/
def Script.wellFormed (p : Script) : Bool := p.all (Stmt.wellFormed p) && decide (Script.labels p).Nodup

end Machine
end Sys2Proof
end

