-- ==== Sys2Proof/Certificates/Slice0/Obligations.lean ====
section
/-! DEFINITION. The statements for the provers, and the few predicates they share. Each says which rule of spec/ it
formalises. -/

namespace Sys2Proof.Claims

open Sys2Proof.Machine

/-- `IBUF[0..n)` has been written by the HOST, byte `i` holding `f i` (R28). -/
def Written (s : State) (n : Nat) (f : Nat → Byte) : Prop := ∀ i, i < n → Cells.read s.ibuf i = some (f i)

/-- What no command changes (R127, R23, R25, R26, R28): CMD, ILEN, PAGE, COUNT, every IBUF byte; nor FAULT, the HOST and
the turns. -/
def KeepsInputs (s t : State) : Prop :=
  t.cmd = s.cmd ∧ t.ilen = s.ilen ∧ t.page = s.page ∧ t.count = s.count
    ∧ (∀ i, Cells.read t.ibuf i = Cells.read s.ibuf i) ∧ t.fault = s.fault ∧ t.host = s.host ∧ t.turns = s.turns

/-- What every finished command leaves in STATUS and ERRBLK (R126). -/
def Finished (t : State) (code : ResultCode) (blk : Nat) : Prop :=
  t.busy = false ∧ t.done = true ∧ t.result = code ∧ t.errblk.toNat = blk

/-- `t` is what a failed command makes of `s` (R126, R127): OLEN = 0, no OBUF byte has a value, inputs kept. -/
def Failed (s t : State) (code : ResultCode) (blk : Nat) : Prop :=
  KeepsInputs s t ∧ Finished t code blk ∧ t.olen.toNat = 0 ∧ ∀ j, Cells.read t.obuf j = none

/-- `t` is what a command that succeeds with `len` bytes of output makes of `s` (R126): inputs kept, and OBUF outside
`[0, len)` as before. That last clause is the model's storage, DEDUCED (log 14): R29 and R128 leave those bytes
unspecified, and every read of one draws. What the `len` bytes are is said beside it. -/
def Succeeded (s t : State) (len : Nat) : Prop :=
  KeepsInputs s t ∧ Finished t .ok 0 ∧ t.olen.toNat = len ∧ ∀ j, len ≤ j → Cells.read t.obuf j = Cells.read s.obuf j

/-- The sum of bytes 8 through 153 of frame `b` of the sequence `f` (R91, R114). -/
def frameSum (f : Nat → Byte) (b : Nat) : Nat :=
  ((List.range 146).map fun o => (f (155 * b + 8 + o)).toNat).sum

/-- Frame `b` of the sequence `f` passes the check (R114). -/
def FramePasses (f : Nat → Byte) (b : Nat) : Prop := frameSum f b % 128 = 0

/-- The HOST moves next, and its statement is `st`, after which it stands at line `pc`. -/
def HostRuns (s : State) (st : Stmt) (pc : Nat) : Prop :=
  s.fault = none ∧ s.nextTurn = .host ∧ s.host.fetch = some (st, pc)

/-- An address of the map of R49, for word-aligned `a`. -/
def Mapped (a : BusAddr) : Prop :=
  a.toNat ≤ 0x18 ∨ (0x1000 ≤ a.toNat ∧ a.toNat ≤ 0x36BF) ∨ (0x4000 ≤ a.toNat ∧ a.toNat ≤ 0x66BF)

/-- The number of a result code (R121). -/
def codeNumber : ResultCode → Nat
  | .ok => 0
  | .checksumError => 1
  | .invalidPageSize => 2
  | .lengthError => 3
  | .operandRange => 4
  | .illegalCommand => 5

/-- Every register, buffer and status field of the block is the same in both states (R16, but for FAULT). -/
def SameBlock (s t : State) : Prop :=
  t.cmd = s.cmd ∧ t.busy = s.busy ∧ t.done = s.done ∧ t.result = s.result ∧ t.ilen = s.ilen ∧ t.olen = s.olen
    ∧ t.page = s.page ∧ t.count = s.count ∧ t.errblk = s.errblk
    ∧ (∀ i, Cells.read t.ibuf i = Cells.read s.ibuf i) ∧ (∀ i, Cells.read t.obuf i = Cells.read s.obuf i)

/-- What a refused access makes of `s`: the fault is recorded and the refused transaction joins the HOST's
sequence (R77, 95_test_vectors.md P4 step 6); nothing else changes but the turn taken. -/
def refused (s : State) (f : Fault) (x : Transaction) : State :=
  { s with fault := some f, host := { s.host with trace := x :: s.host.trace }, turns := s.turns.tail }

end Sys2Proof.Claims

section

open Sys2Proof Sys2Proof.Machine Sys2Proof.Claims

/-! ## Encoding -/

/-- R64: the six words, and a word is a command's if and only if it equals that command's word in all 32 bits. -/
def Obligations.DecodeMatchesExactlyTheSixWords : Prop :=
  (encode .scr).toNat = 0x00000001 ∧ (encode .uscr).toNat = 0x00000002 ∧ (encode .chkv).toNat = 0x00000003
    ∧ (encode .idrq).toNat = 0x00000010 ∧ (encode .dtrq).toNat = 0x00000011 ∧ (encode .wrpg).toNat = 0x00000012
    ∧ ∀ (w : Word) (i : Instr), decode w = .ok i ↔ w = encode i

/-- R65: which words are illegal, by RSV (bits 31:8) and OP (bits 7:0), and that the decoder names which of the two it is. -/
def Obligations.IllegalWordsAreRejectedByName : Prop :=
  ∀ w : Word,
    (w.toNat / 256 ≠ 0 → decode w = .error (.reservedBits (BitVec.ofNat 24 (w.toNat / 256))))
    ∧ (w.toNat / 256 = 0 →
        (w.toNat = 0 ∨ (4 ≤ w.toNat ∧ w.toNat ≤ 0x0F) ∨ 0x13 ≤ w.toNat) →
          decode w = .error (.reservedOpcode (BitVec.ofNat 8 w.toNat)))
    ∧ (w.toNat / 256 = 0 →
        ¬(w.toNat = 0 ∨ (4 ≤ w.toNat ∧ w.toNat ≤ 0x0F) ∨ 0x13 ≤ w.toNat) → ∃ i, decode w = .ok i)

/-- R63, R64: decoding what was encoded gives the instruction back, through the table's numbering too. -/
def Obligations.DecodeOfEncodeIsTheInstruction : Prop :=
  ∀ i : Instr, i.wellFormed = true →
    decode (encode i) = .ok i ∧ decodeTableWord 32 (encode i).toNat = some i ∧ legalCommandWord (encode i) = true

/-- R64: some words of the map written out, and some words outside it. -/
def Obligations.SampleWordsDecode : Prop :=
  decodeTableWord 32 0x00000001 = some .scr ∧ decodeTableWord 32 0x00000002 = some .uscr
    ∧ decodeTableWord 32 0x00000012 = some .wrpg ∧ decodeTableWord 32 0x00000101 = none
    ∧ decodeTableWord 32 0x80000002 = none ∧ decodeTableWord 32 0x00000013 = none

/-! ## The step -/

/-- R15: on the ENGINE's turn with BUSY = 1 the step is `exec` of the command in CMD, on the state with the turn taken.
R34: with a fault on record there is no step. R15, R138: with BUSY = 0 the ENGINE has no step and its turn passes. -/
def Obligations.StepRunsTheDecodedCommand : Prop :=
  (∀ (s : State) (i : Instr), s.fault = none → s.nextTurn = .engine → s.busy = true → decode s.cmd = .ok i →
      step s = exec i { s with turns := s.turns.tail })
  ∧ (∀ (s : State) (f : Fault), s.fault = some f → step s = .fault f)
  ∧ (∀ s : State, s.fault = none → s.nextTurn = .engine → s.busy = false →
      step s = .next { s with turns := s.turns.tail })

/-- Log 10: a command latched from outside is what the next step runs, on a state that is otherwise as before. -/
def Obligations.FetchedWordIsRunNext : Prop :=
  ∀ (s : State) (i : Instr),
    step (s.withFetchWord 32 (encode i).toNat)
      = exec i { s with cmd := encode i, busy := true, done := false, result := .ok, fault := none }

/-- R65, R125, R127: on the ENGINE's turn an illegal command word finishes with ILLEGAL_COMMAND, whatever ILEN, PAGE and
COUNT hold, and does nothing else. -/
def Obligations.IllegalCommandFinishes : Prop :=
  ∀ s : State, s.fault = none → s.nextTurn = .engine → s.busy = true → (∀ i, s.cmd ≠ encode i) →
    ∃ t, step s = .next t ∧ Failed { s with turns := s.turns.tail } t .illegalCommand 0

/-- R140, R126: a started command always runs to its finish: every ENGINE step clears BUSY and sets DONE. -/
def Obligations.EveryEngineStepFinishes : Prop :=
  ∀ s : State, s.fault = none → s.nextTurn = .engine → s.busy = true →
    ∃ t, step s = .next t ∧ t.busy = false ∧ t.done = true ∧ t.result ∈ wordResults s.cmd
      ∧ KeepsInputs { s with turns := s.turns.tail } t

/-- R123: the result codes each command can finish with, from every state; and an illegal word finishes with
ILLEGAL_COMMAND alone. -/
def Obligations.ResultCodesPerCommand : Prop :=
  (∀ s t : State, s.busy = true → (∀ i, s.cmd ≠ encode i) → engineStep s = .next t → t.result = .illegalCommand)
  ∧ ∀ (i : Instr) (s t : State), exec i s = .next t →
    match i with
    | .scr => t.result = .ok ∨ t.result = .lengthError
    | .uscr => t.result = .ok ∨ t.result = .lengthError ∨ t.result = .checksumError
    | .chkv => t.result = .ok ∨ t.result = .lengthError ∨ t.result = .checksumError
    | .idrq => t.result = .ok
    | .dtrq => t.result = .ok ∨ t.result = .operandRange
    | .wrpg => t.result = .ok ∨ t.result = .invalidPageSize ∨ t.result = .operandRange

/-- R126, R127, R128: the frame of every command. It changes STATUS, OLEN, ERRBLK and OBUF only. On success ERRBLK is 0
and OBUF outside `[0, OLEN)` is as before (that clause is the model's storage, DEDUCED, log 14: R29 and R128 leave those
bytes unspecified); on failure OLEN is 0, no OBUF byte has a value, and ERRBLK is 0 but for
CHECKSUM_ERROR. -/
def Obligations.FrameOfEveryCommand : Prop :=
  ∀ (i : Instr) (s t : State), exec i s = .next t →
    KeepsInputs s t ∧ t.busy = false ∧ t.done = true
    ∧ (t.result = .ok → t.errblk.toNat = 0 ∧ ∀ j, t.olen.toNat ≤ j → Cells.read t.obuf j = Cells.read s.obuf j)
    ∧ (t.result ≠ .ok → t.olen.toNat = 0 ∧ ∀ j, Cells.read t.obuf j = none)
    ∧ (t.result ≠ .checksumError → t.errblk.toNat = 0)

/-- R150: from every state with a command in flight and no fault, however the turns are set, some number of steps, at most
one more than the turns listed, reaches BUSY = 0 or a recorded fault. (The bound is the model's: log 2.) -/
def Obligations.CommandInFlightEnds : Prop :=
  ∀ s : State, s.fault = none → s.busy = true →
    ∃ (k : Nat) (t : State), k ≤ s.turns.length + 1
      ∧ Host.Core.run core k s = .next t ∧ (t.busy = false ∨ t.fault.isSome = true)

/-- R150: a WAIT loop ends. The HOST stands at `WAIT` (its label, the STATUS read, the branch back), no fault is on
record and no reset is among the turns: however HOST and ENGINE are interleaved in the turns listed, the HOST leaves the
loop, within four steps more than the turns listed, with BUSY = 0 and no fault. (The bound is the model's: log 2.) -/
def Obligations.WaitLoopEnds : Prop :=
  ∀ (s : State) (l : Label) (rest : Script), s.fault = none → s.host.failed = false →
    (∀ u ∈ s.turns, u ≠ .reset) →
    s.host.script.drop s.host.pc = Script.wait l ++ rest → Script.find? s.host.script l = some s.host.pc →
    ∃ (k : Nat) (t : State), k ≤ s.turns.length + 4 ∧ Host.Core.run core k s = .next t ∧ t.host.pc = s.host.pc + 3
      ∧ t.busy = false ∧ t.fault = none ∧ t.host.failed = false

/-! ## HOST accesses -/

/-- R20: a HOST write of CMD with BUSY = 0 starts a command and changes no other state of the block; with BUSY = 1 it is a
host hazard. (That a refused HOST stays at its statement is the model's, log 8; that a host hazard stands among its
transactions is DEDUCED, log 18.) -/
def Obligations.CommandStartLatchesTheWord : Prop :=
  ∀ (s : State) (a : HostAddr) (v : HostValue) (pc : Nat), HostRuns s (.write a 4 v) pc → a.addr = 0x0000#16 →
    (s.busy = false →
      step s = .next { s with
        cmd := s.host.value v, busy := true, done := false, result := .ok
        host := { s.host with pc := pc, trace := .write 0x0000#16 (s.host.value v) :: s.host.trace }
        turns := s.turns.tail })
    ∧ (s.busy = true → step s = .next { s with
        fault := some (.hostHazard 0x0000#16)
        host := { s.host with
          trace := .refusedWrite 0x0000#16 (s.host.value v) (.hostHazard 0x0000#16) :: s.host.trace }
        turns := s.turns.tail })

/-- R53, R46, R23, R25, R26: with BUSY = 0 a write of ILEN, PAGE or COUNT stores `v[15:0]` and changes nothing else. -/
def Obligations.OperandRegisterWritesStoreLowHalf : Prop :=
  ∀ (s : State) (a : HostAddr) (v : HostValue) (pc : Nat), HostRuns s (.write a 4 v) pc → s.busy = false →
    let x := BitVec.ofNat 16 ((s.host.value v).toNat % 65536)
    let h := { s.host with pc := pc, trace := .write a.addr (s.host.value v) :: s.host.trace }
    (a.addr = 0x0008#16 → step s = .next { s with ilen := x, host := h, turns := s.turns.tail })
    ∧ (a.addr = 0x0010#16 → step s = .next { s with page := x, host := h, turns := s.turns.tail })
    ∧ (a.addr = 0x0014#16 → step s = .next { s with count := x, host := h, turns := s.turns.tail })

/-- R32, R46: with BUSY = 0 a write of STATUS, OLEN or ERRBLK changes nothing of the block and is no fault. -/
def Obligations.ReadOnlyWritesAreIgnored : Prop :=
  ∀ (s : State) (a : HostAddr) (v : HostValue) (pc : Nat), HostRuns s (.write a 4 v) pc → s.busy = false →
    (a.addr = 0x0004#16 ∨ a.addr = 0x000C#16 ∨ a.addr = 0x0018#16) →
    step s = .next { s with
      host := { s.host with pc := pc, trace := .write a.addr (s.host.value v) :: s.host.trace }
      turns := s.turns.tail }

/-- R53, R19, R21, R23..R27: what a read of each register returns, reserved bits 0. -/
def Obligations.RegisterReadsReturnTheFields : Prop :=
  ∀ s : State,
    (s.busRead 0x0000#16).toNat = s.cmd.toNat
    ∧ (s.busRead 0x0004#16).toNat
        = (if s.busy then 1 else 0) + 2 * (if s.done then 1 else 0) + 16 * codeNumber s.result
    ∧ (s.busRead 0x0008#16).toNat = s.ilen.toNat
    ∧ (s.busRead 0x000C#16).toNat = s.olen.toNat
    ∧ (s.busRead 0x0010#16).toNat = s.page.toNat
    ∧ (s.busRead 0x0014#16).toNat = s.count.toNat
    ∧ (s.busRead 0x0018#16).toNat = s.errblk.toNat

/-- R45, R53, R77: an aligned 32-bit read of a mapped address with BUSY = 0 completes, keeps the value read in the host
variable (`R <addr> -> $x`) or discards it (`R <addr>`), and changes nothing of the block. -/
def Obligations.ReadsHaveNoSideEffect : Prop :=
  ∀ (s : State) (a : HostAddr) (dst : Option HostVar) (pc : Nat), HostRuns s (.read a 4 dst) pc → s.busy = false →
    a.addr.toNat % 4 = 0 → Mapped a.addr →
    ∃ t, step s = .next t ∧ SameBlock s t ∧ t.fault = none ∧ t.turns = s.turns.tail
      ∧ t.host.pc = pc ∧ t.host.script = s.host.script ∧ t.host.failed = s.host.failed
      ∧ t.host.trace = .read a.addr (s.busRead a.addr) :: s.host.trace
      ∧ (∀ y, Cells.read t.host.vars y
          = if dst = some y then some (s.busRead a.addr) else Cells.read s.host.vars y)

/-- R51: the IBUF window. A write stores `v[7:0]` in IBUF[i] and changes nothing else; a read returns the byte, zero
extended, where the HOST has written it, and some byte where it has not. -/
def Obligations.IbufWindowIsOneBytePerWord : Prop :=
  ∀ (s : State) (i : Nat), i < 2480 →
    (∀ b, Cells.read s.ibuf i = some b → (s.busRead (BitVec.ofNat 16 (0x1000 + 4 * i))).toNat = b.toNat)
    ∧ (Cells.read s.ibuf i = none →
        s.busRead (BitVec.ofNat 16 (0x1000 + 4 * i)) = (Config.drawByte s.draws).setWidth 32)
    ∧ (∀ (a : HostAddr) (v : HostValue) (pc : Nat), HostRuns s (.write a 4 v) pc → s.busy = false →
        a.addr.toNat = 0x1000 + 4 * i →
        ∃ m, step s = .next { s with
            ibuf := m
            host := { s.host with pc := pc, trace := .write a.addr (s.host.value v) :: s.host.trace }
            turns := s.turns.tail }
          ∧ Cells.read m i = some (BitVec.ofNat 8 ((s.host.value v).toNat % 256))
          ∧ ∀ j, j ≠ i → Cells.read m j = Cells.read s.ibuf j)

/-- R52: the OBUF window. Below OLEN a read returns the byte, zero extended; at or above OLEN some byte, whatever OBUF
holds there; a write has no effect and is no fault. -/
def Obligations.ObufReadsAreGatedByOlen : Prop :=
  ∀ (s : State) (i : Nat), i < 2480 →
    (∀ b, i < s.olen.toNat → Cells.read s.obuf i = some b →
        (s.busRead (BitVec.ofNat 16 (0x4000 + 4 * i))).toNat = b.toNat)
    ∧ (s.olen.toNat ≤ i → s.busRead (BitVec.ofNat 16 (0x4000 + 4 * i)) = (Config.drawByte s.draws).setWidth 32)
    ∧ (∀ (a : HostAddr) (v : HostValue) (pc : Nat), HostRuns s (.write a 4 v) pc → s.busy = false →
        a.addr.toNat = 0x4000 + 4 * i →
        step s = .next { s with
          host := { s.host with pc := pc, trace := .write a.addr (s.host.value v) :: s.host.trace }
          turns := s.turns.tail })

/-- R42, R47, R50, R131, R132: a misaligned access, one of another size, or one at an unmapped address records BusError,
BUSY or not, and joins the HOST's transactions as a refused one; nothing else changes, and the machine takes no further
step. (That the HOST stays at its statement is the model's: log 8.) -/
def Obligations.BusErrorsAreRecorded : Prop :=
  ∀ (s : State) (a : HostAddr) (size : Nat) (v : HostValue) (dst : Option HostVar) (pc : Nat),
    (size ≠ 4 ∨ a.addr.toNat % 4 ≠ 0 ∨ ¬Mapped a.addr) →
    (HostRuns s (.write a size v) pc →
      ∃ t, t = refused s (.busError a.addr) (.refusedWrite a.addr (s.host.value v) (.busError a.addr))
        ∧ step s = .next t ∧ step t = .fault (.busError a.addr))
    ∧ (HostRuns s (.read a size dst) pc →
      ∃ t, t = refused s (.busError a.addr) (.refusedRead a.addr (.busError a.addr))
        ∧ step s = .next t ∧ step t = .fault (.busError a.addr))

/-- R146, R131: any other access than a read of STATUS, aligned, 32-bit and at a mapped address, while BUSY = 1 records
HostHazard and joins the HOST's transactions as a refused one (DEDUCED: log 18); nothing else changes, and the machine
takes no further step; the read of STATUS raises no fault. (That the HOST stays at its statement is the model's: log 8.) -/
def Obligations.HostHazardsAreRecorded : Prop :=
  ∀ (s : State) (a : HostAddr) (v : HostValue) (dst : Option HostVar) (pc : Nat), s.busy = true →
    (HostRuns s (.write a 4 v) pc → a.addr.toNat % 4 = 0 → Mapped a.addr →
      ∃ t, t = refused s (.hostHazard a.addr) (.refusedWrite a.addr (s.host.value v) (.hostHazard a.addr))
        ∧ step s = .next t ∧ step t = .fault (.hostHazard a.addr))
    ∧ (HostRuns s (.read a 4 dst) pc → a.addr ≠ 0x0004#16 → a.addr.toNat % 4 = 0 → Mapped a.addr →
      ∃ t, t = refused s (.hostHazard a.addr) (.refusedRead a.addr (.hostHazard a.addr))
        ∧ step s = .next t ∧ step t = .fault (.hostHazard a.addr))
    ∧ (HostRuns s (.read a 4 dst) pc → a.addr = 0x0004#16 → ∃ t, step s = .next t ∧ t.fault = none)

/-- R146, R132, V24: a read of STATUS while BUSY = 1 is allowed, and returns 0x00000001 where DONE and RESULT are 0, as
they are in every state with BUSY = 1 that meets the invariant (R21, StepKeepsTheInvariant). -/
def Obligations.StatusReadAllowedWhileBusy : Prop :=
  ∀ (s : State) (a : HostAddr) (dst : Option HostVar) (pc : Nat), HostRuns s (.read a 4 dst) pc →
    a.addr = 0x0004#16 → s.Inv → s.busy = true →
    ∃ t, step s = .next t ∧ t.fault = none ∧ SameBlock s t
      ∧ t.host.trace = .read 0x0004#16 0x00000001#32 :: s.host.trace
      ∧ ∀ x, dst = some x → Cells.read t.host.vars x = some 0x00000001#32

/-- R30, R146: while BUSY = 1 no HOST step changes anything of the block. -/
def Obligations.HostCannotDisturbACommand : Prop :=
  ∀ s t : State, s.busy = true → s.nextTurn = .host → step s = .next t → SameBlock s t

/-- R22, R24, R27, R29: no HOST step writes OLEN, ERRBLK or OBUF, and a HOST step that changes BUSY, DONE or RESULT is a
command start: BUSY was 0 and becomes 1, DONE and RESULT become 0. -/
def Obligations.HostNeverWritesResults : Prop :=
  ∀ s t : State, s.nextTurn = .host → step s = .next t →
    t.olen = s.olen ∧ t.errblk = s.errblk ∧ (∀ j, Cells.read t.obuf j = Cells.read s.obuf j)
    ∧ ((t.busy = s.busy ∧ t.done = s.done ∧ t.result = s.result ∧ t.cmd = s.cmd)
        ∨ (s.busy = false ∧ t.busy = true ∧ t.done = false ∧ t.result = .ok))

/-- R77: `IF $x & mask GOTO label` is taken when `($x & mask) ≠ 0`, and a CHECK that holds lets the HOST go on; neither
changes the block. R153: a CHECK that does not hold ends the run badly. (That the HOST then stops is the model's, log 11;
that a GOTO to a label defined twice lands at the first, as Script.find? has it, is the model's, log 20.) -/
def Obligations.BranchAndCheckFollowTheScript : Prop :=
  ∀ (s : State) (x : HostVar) (m v : Word) (l : Label) (pc k : Nat),
    (HostRuns s (.branch x m l) pc → Script.find? s.host.script l = some k →
      step s = .next { s with
        host := { s.host with pc := if s.host.var x &&& m = 0 then pc else k }, turns := s.turns.tail })
    ∧ (HostRuns s (.check x v) pc → s.host.var x = v →
        step s = .next { s with host := { s.host with pc := pc }, turns := s.turns.tail })
    ∧ (HostRuns s (.check x v) pc → s.host.var x ≠ v → ∃ t, step s = .next t ∧ t.endsBadly = true ∧ SameBlock s t)

/-! ## Reset -/

/-- R35, R141, R142: the reset input, at any time, puts every register at 0 and leaves no buffer byte with a value, and it
does not clear FAULT; State.reset holds the same values and no fault. R34: with a fault on record there is no step. (That
the reset input is a turn between two steps, and leaves the HOST and the other turns as they are, is DEDUCED: log 17.) -/
def Obligations.ResetClearsTheBlock : Prop :=
  (∀ s : State, s.fault = none → s.nextTurn = .reset →
    ∃ t, step s = .next t ∧ t.cmd = 0 ∧ t.busy = false ∧ t.done = false ∧ t.result = .ok ∧ t.ilen = 0 ∧ t.olen = 0
      ∧ t.page = 0 ∧ t.count = 0 ∧ t.errblk = 0 ∧ (∀ j, Cells.read t.ibuf j = none)
      ∧ (∀ j, Cells.read t.obuf j = none) ∧ t.fault = s.fault ∧ t.host = s.host ∧ t.turns = s.turns.tail)
  ∧ (∀ (s : State) (f : Fault), s.fault = some f → s.nextTurn = .reset → step s = .fault f)
  ∧ State.reset.cmd = 0 ∧ State.reset.busy = false ∧ State.reset.done = false ∧ State.reset.result = .ok
  ∧ State.reset.ilen = 0 ∧ State.reset.olen = 0 ∧ State.reset.page = 0 ∧ State.reset.count = 0
  ∧ State.reset.errblk = 0 ∧ (∀ j, Cells.read State.reset.ibuf j = none)
  ∧ (∀ j, Cells.read State.reset.obuf j = none) ∧ State.reset.fault = none

/-! ## SCR and USCR -/

/-- R80: SCR accepts ILEN if and only if it is a multiple of 125 and at most 2000; otherwise LENGTH_ERROR; 0 gives no
output. -/
def Obligations.ScrLengthRule : Prop :=
  ∀ s : State,
    (s.ilen.toNat % 125 = 0 ∧ s.ilen.toNat ≤ 2000 →
      ∃ t, exec .scr s = .next t ∧ t.result = .ok ∧ t.olen.toNat = 155 * (s.ilen.toNat / 125))
    ∧ (¬(s.ilen.toNat % 125 = 0 ∧ s.ilen.toNat ≤ 2000) → ∃ t, exec .scr s = .next t ∧ Failed s t .lengthError 0)

/-- R66, R67, R68, R84, R87, R90: what SCR writes, byte by byte, when the input has been written. Output frame `b` holds
block `b`: zeros at 0..9, 153 and 154; group `g` has its MSB byte at 10 + 8g, whose bit 6−k is bit 7 of the byte at
position k and whose other bits are 0, and the 7-bit byte of position k at 11 + 8g + k. (That OBUF beyond the output is as
before, a clause of Succeeded, is the model's storage, DEDUCED: log 14.) -/
def Obligations.ScrPacksBlocksIntoFrames : Prop :=
  ∀ (s : State) (f : Nat → Byte), s.ilen.toNat % 125 = 0 → s.ilen.toNat ≤ 2000 → Written s s.ilen.toNat f →
    ∃ t, exec .scr s = .next t ∧ Succeeded s t (155 * (s.ilen.toNat / 125)) ∧
      ∀ b, b < s.ilen.toNat / 125 →
        (∀ o, o < 10 ∨ o = 153 ∨ o = 154 → Cells.read t.obuf (155 * b + o) = some 0#8)
        ∧ ∀ g, g < 18 → ∃ m : Byte, Cells.read t.obuf (155 * b + (10 + 8 * g)) = some m ∧ m.getLsbD 7 = false
            ∧ (g = 17 → m.getLsbD 0 = false)
            ∧ ∀ k, k < (if g = 17 then 6 else 7) →
                m.getLsbD (6 - k) = (f (125 * b + (7 * g + k))).getLsbD 7
                ∧ Cells.read t.obuf (155 * b + (11 + 8 * g + k))
                    = some (BitVec.ofNat 8 ((f (125 * b + (7 * g + k))).toNat % 128))

/-- R94: every byte SCR writes to OBUF is below 0x80, whatever the input, written or not. -/
def Obligations.ScrOutputIsSevenBit : Prop :=
  ∀ s t : State, exec .scr s = .next t → t.result = .ok →
    ∀ j, j < t.olen.toNat → ∃ b, Cells.read t.obuf j = some b ∧ b.toNat < 0x80

/-- R85, R92: the bits of an unpacked byte. -/
def Obligations.UnpackByteBits : Prop :=
  ∀ (m d : Byte) (k : Nat), k < 7 →
    (unpackByte m d k).toNat = d.toNat ||| ((m.toNat * 2 ^ (k + 1)) &&& 0x80)
    ∧ (unpackByte m d k).getLsbD 7 = (d.getLsbD 7 || m.getLsbD (6 - k))
    ∧ ∀ i, i < 7 → (unpackByte m d k).getLsbD i = d.getLsbD i

/-- R81: USCR and CHKV accept ILEN if and only if it is a multiple of 155 and at most 2480; otherwise LENGTH_ERROR. (That
USCR with ILEN = 0 leaves all of OBUF as before, a clause of Succeeded, is the model's storage, DEDUCED: log 14.) -/
def Obligations.FrameLengthRule : Prop :=
  ∀ s : State,
    (¬(s.ilen.toNat % 155 = 0 ∧ s.ilen.toNat ≤ 2480) →
      ∃ t u, exec .uscr s = .next t ∧ Failed s t .lengthError 0 ∧ exec .chkv s = .next u ∧ Failed s u .lengthError 0)
    ∧ (s.ilen.toNat % 155 = 0 ∧ s.ilen.toNat ≤ 2480 →
      ∃ t u, exec .uscr s = .next t ∧ t.result ≠ .lengthError ∧ exec .chkv s = .next u ∧ u.result ≠ .lengthError)
    ∧ (s.ilen.toNat = 0 →
      ∃ t u, exec .uscr s = .next t ∧ Succeeded s t 0 ∧ exec .chkv s = .next u ∧ Succeeded s u 0)

/-- R86, R88, R93: what USCR writes when the input has been written and every frame passes. (That OBUF beyond the output
is as before, a clause of Succeeded, is the model's storage, DEDUCED: log 14.) -/
def Obligations.UscrUnpacksGoodFrames : Prop :=
  ∀ (s : State) (f : Nat → Byte), s.ilen.toNat % 155 = 0 → s.ilen.toNat ≤ 2480 → Written s s.ilen.toNat f →
    (∀ b, b < s.ilen.toNat / 155 → FramePasses f b) →
    ∃ t, exec .uscr s = .next t ∧ Succeeded s t (125 * (s.ilen.toNat / 155)) ∧
      ∀ b, b < s.ilen.toNat / 155 → ∀ g k, g < 18 → k < (if g = 17 then 6 else 7) →
        Cells.read t.obuf (125 * b + (7 * g + k))
          = some (BitVec.ofNat 8 ((f (155 * b + (11 + 8 * g + k))).toNat
              ||| (if (f (155 * b + (10 + 8 * g))).getLsbD (6 - k) then 0x80 else 0)))

/-- R88, R93, R125: USCR reports the first failing frame. -/
def Obligations.UscrReportsTheFirstBadFrame : Prop :=
  ∀ (s : State) (f : Nat → Byte) (b : Nat), s.ilen.toNat % 155 = 0 → s.ilen.toNat ≤ 2480 →
    Written s s.ilen.toNat f → b < s.ilen.toNat / 155 → ¬FramePasses f b → (∀ c, c < b → FramePasses f c) →
    ∃ t, exec .uscr s = .next t ∧ Failed s t .checksumError b

/-- R28, R76: a command that reads unwritten IBUF bytes acts as it would if those bytes had been written, with some
values; the written ones it reads as they are. (Each byte is read once: log 4.) -/
def Obligations.UnwrittenBytesActAsSomeBytes : Prop :=
  ∀ (i : Instr) (s : State), s.ilen.toNat ≤ 2480 →
    ∃ inp : List Byte, inp.length = s.ilen.toNat
      ∧ (∀ j b, j < s.ilen.toNat → Cells.read s.ibuf j = some b → inp[j]? = some b)
      ∧ ∃ t, exec i s = .next t
        ∧ exec i { s with ibuf := Cells.putRun s.ibuf 0 inp } = .next { t with ibuf := Cells.putRun s.ibuf 0 inp }

/-! ## Framer -/

/-- R103: the word 0x00000010 is IDRQ, which writes the 5 bytes `ID_REQ[0..4]` and ends with OK, from every state.
(That the other OBUF bytes are as before, a clause of Succeeded, is the model's storage, DEDUCED: log 14.) -/
def Obligations.IdrqWritesTheFiveBytes : Prop :=
  decode 0x00000010#32 = .ok .idrq ∧ ∀ s : State, ∃ t, exec .idrq s = .next t ∧ Succeeded s t 5
    ∧ ∀ (j : Nat) (h : j < 5), Cells.read t.obuf j = some (Config.idReq ⟨j, h⟩)

/-- R70, R72, R73, R106, R107, R108: the Data Request, byte by byte. (That OBUF beyond it is as before, a clause of
Succeeded, is the model's storage, DEDUCED: log 14.) -/
def Obligations.DtrqFramesTheRequest : Prop :=
  ∀ s : State, s.page.toNat ≤ 0x3FFF → 1 ≤ s.count.toNat → s.count.toNat ≤ 0x4000 →
    ∃ t c, exec .dtrq s = .next t ∧ Succeeded s t (Config.rqHdrLen.val + 6)
      ∧ (∀ (j : Nat) (h : j < Config.rqHdrLen.val), Cells.read t.obuf j = some (Config.rqHdr ⟨j, h⟩))
      ∧ Cells.read t.obuf (Config.rqHdrLen.val) = some (BitVec.ofNat 8 (s.page.toNat / 128))
      ∧ Cells.read t.obuf (Config.rqHdrLen.val + 1) = some (BitVec.ofNat 8 (s.page.toNat % 128))
      ∧ Cells.read t.obuf (Config.rqHdrLen.val + 2) = some (BitVec.ofNat 8 ((s.count.toNat - 1) / 128))
      ∧ Cells.read t.obuf (Config.rqHdrLen.val + 3) = some (BitVec.ofNat 8 ((s.count.toNat - 1) % 128))
      ∧ Cells.read t.obuf (Config.rqHdrLen.val + 4) = some c ∧ c.toNat < 128
      ∧ (s.page.toNat / 128 + s.page.toNat % 128 + (s.count.toNat - 1) / 128 + (s.count.toNat - 1) % 128 + c.toNat)
          % 128 = 0
      ∧ Cells.read t.obuf (Config.rqHdrLen.val + 5) = some 0xF7#8

/-- R105: DTRQ finishes with OPERAND_RANGE for PAGE > 0x3FFF, COUNT = 0 or COUNT > 0x4000. -/
def Obligations.DtrqRangeRule : Prop :=
  ∀ s : State, s.page.toNat > 0x3FFF ∨ s.count.toNat = 0 ∨ s.count.toNat > 0x4000 →
    ∃ t, exec .dtrq s = .next t ∧ Failed s t .operandRange 0

/-- R69, R111, R112, R113: the Write Page frame, byte by byte, when the input has been written. (That OBUF beyond it is as
before, a clause of Succeeded, is the model's storage, DEDUCED: log 14.) -/
def Obligations.WrpgFramesThePage : Prop :=
  ∀ (s : State) (f : Nat → Byte), s.ilen.toNat = 155 → s.page.toNat ≤ 0x3FFF → Written s 155 f →
    ∃ t c, exec .wrpg s = .next t ∧ Succeeded s t 155
      ∧ (∀ (j : Nat) (h : j < 8), Cells.read t.obuf j = some (Config.wrHdr ⟨j, h⟩))
      ∧ Cells.read t.obuf 8 = some (BitVec.ofNat 8 (s.page.toNat / 128))
      ∧ Cells.read t.obuf 9 = some (BitVec.ofNat 8 (s.page.toNat % 128))
      ∧ (∀ j, 10 ≤ j → j < 153 → Cells.read t.obuf j = some (f j))
      ∧ Cells.read t.obuf 153 = some c ∧ c.toNat < 128
      ∧ (s.page.toNat / 128 + s.page.toNat % 128 + ((List.range 143).map fun o => (f (10 + o)).toNat).sum + c.toNat)
          % 128 = 0
      ∧ Cells.read t.obuf 154 = some 0xF7#8

/-- R109, R110, R125: WRPG's two errors, the size rule first. -/
def Obligations.WrpgErrorsAndTheirOrder : Prop :=
  ∀ s : State,
    (s.ilen.toNat ≠ 155 → ∃ t, exec .wrpg s = .next t ∧ Failed s t .invalidPageSize 0)
    ∧ (s.ilen.toNat = 155 → s.page.toNat > 0x3FFF → ∃ t, exec .wrpg s = .next t ∧ Failed s t .operandRange 0)

/-! ## The checksum -/

/-- R101: the properties of Csum7. -/
def Obligations.CsumLaws : Prop :=
  ∀ s : List Byte,
    (csum7 s).toNat ≤ 127
    ∧ (byteSum s + (csum7 s).toNat) % 128 = 0
    ∧ ((csum7 s).toNat = 0 ↔ byteSum s % 128 = 0)
    ∧ ∀ s' : List Byte, s'.map (fun b => b.toNat % 128) = s.map (fun b => b.toNat % 128) → csum7 s' = csum7 s

/-- R115: what the check detects. For two frames that agree outside 8..153, of which the first passes, the second passes
exactly when the difference of the sums is 0 mod 128; for a change of one byte, exactly when its low 7 bits are kept; and
bytes 0..7 and 154 take no part. -/
def Obligations.CheckDetectsLowBitChanges : Prop :=
  ∀ fr : List Byte, fr.length = 155 → frameOK fr = true →
    (∀ fr' : List Byte, fr'.length = 155 →
      (frameOK fr' = true ↔ (byteSum (seg fr' 8 154) : Int) % 128 = (byteSum (seg fr 8 154) : Int) % 128))
    ∧ (∀ (o : Nat) (b : Byte), 8 ≤ o → o ≤ 153 →
        (frameOK (fr.set o b) = true ↔ b.toNat % 128 = (byteAt fr o).toNat % 128))
    ∧ (∀ (o : Nat) (b : Byte), o < 8 ∨ o = 154 → frameOK (fr.set o b) = true)

/-- R116: CHKV, when the input has been written: OK with OLEN 0 and no OBUF byte written when every frame passes, else
CHECKSUM_ERROR with the first failing frame. -/
def Obligations.ChkvChecksEveryFrame : Prop :=
  ∀ (s : State) (f : Nat → Byte), s.ilen.toNat % 155 = 0 → s.ilen.toNat ≤ 2480 → Written s s.ilen.toNat f →
    ((∀ b, b < s.ilen.toNat / 155 → FramePasses f b) →
      ∃ t, exec .chkv s = .next t ∧ Succeeded s t 0)
    ∧ (∀ b, b < s.ilen.toNat / 155 → ¬FramePasses f b → (∀ c, c < b → FramePasses f c) →
      ∃ t, exec .chkv s = .next t ∧ Failed s t .checksumError b)

/-- R116 (its corner case): CHKV's result and ERRBLK equal USCR's from the same state. Over unwritten bytes this rests on
the two taking the same draws (log 3). -/
def Obligations.ChkvAgreesWithUscr : Prop :=
  ∀ s : State, ∃ t u, exec .chkv s = .next t ∧ exec .uscr s = .next u ∧ t.result = u.result ∧ t.errblk = u.errblk

/-! ## Laws across commands -/

/-- R89: the round trip. Take any `s` of whole blocks and any `t` of as many frames that carries Scramble(s) at offsets
10..152 of each frame, and whose checksum bytes are completed: Unscramble(t) is Ok(s). Header, page address and
terminator may hold anything. -/
def Obligations.UnscrambleUndoesScramble : Prop :=
  ∀ (n : Nat) (s t : List Byte), s.length = 125 * n → t.length = 155 * n →
    (∀ b o, b < n → 10 ≤ o → o < 153 → t[155 * b + o]? = (scramble s)[155 * b + o]?) →
    (∀ b, b < n → frameOK (seg t (155 * b) (155 * b + 155)) = true) →
    unscramble t = .ok s

/-- R89 (its second half), R96: raw SCR output, whose checksum byte is 0. It unscrambles back only when every frame's
payload, bytes 10..152, sums to 0 mod 128; otherwise the result is Bad of the first frame whose payload does not. -/
def Obligations.RawScrambleFailsUnlessPayloadSumsVanish : Prop :=
  ∀ (n : Nat) (s : List Byte), s.length = 125 * n →
    ((∀ b, b < n → byteSum (seg (scramble s) (155 * b + 10) (155 * b + 153)) % 128 = 0) →
      unscramble (scramble s) = .ok s)
    ∧ (∀ b, b < n → byteSum (seg (scramble s) (155 * b + 10) (155 * b + 153)) % 128 ≠ 0 →
        (∀ c, c < b → byteSum (seg (scramble s) (155 * c + 10) (155 * c + 153)) % 128 = 0) →
        unscramble (scramble s) = .bad b)

/-- R117: a frame WRPG has made passes CHKV and USCR once copied to IBUF, and if WRPG's input was PackBlock(x), USCR gives
x back. (Over WRPG input nobody has written this rests on WRPG's reading each byte once, which is DEDUCED: log 4.) -/
def Obligations.WrittenPageIsAcceptedBack : Prop :=
  ∀ s t u : State, exec .wrpg s = .next t → t.result = .ok →
    u.ilen.toNat = 155 → (∀ j, j < 155 → Cells.read u.ibuf j = Cells.read t.obuf j) →
    (∃ v, exec .chkv u = .next v ∧ v.result = .ok)
    ∧ ∃ w, exec .uscr u = .next w ∧ w.result = .ok ∧ w.olen.toNat = 125
      ∧ ∀ x : List Byte, x.length = 125 → Written s 155 (byteAt (packBlock x)) →
          ∀ j, j < 125 → Cells.read w.obuf j = x[j]?

/-! ## The invariant -/

/-- Every step keeps the invariant (R21, R24, R27, R29, R123, and the canonical form of the buffers). -/
def Obligations.StepKeepsTheInvariant : Prop := ∀ s t : State, s.Inv → step s = .next t → t.Inv

/-- The invariant holds at reset. -/
def Obligations.ResetMeetsTheInvariant : Prop := State.reset.Inv

/-- R29, R52: in every state that meets the invariant every OBUF byte below OLEN has a value, and a HOST read returns it;
none reads as a draw. -/
def Obligations.FinishedOutputIsReadable : Prop :=
  ∀ s : State, s.Inv → ∀ i, i < s.olen.toNat →
    ∃ b, Cells.read s.obuf i = some b ∧ s.busRead (BitVec.ofNat 16 (0x4000 + 4 * i)) = b.setWidth 32

end
end

