-- ==== Sys2Proof/Laws/Decode.lean ====
section
/-! SUPPORT. Laws of the decoder. -/

namespace Sys2Proof

/-- No two rows of the opcode map share a word. -/
theorem opTable_rows_disjoint : opTable.Pairwise (fun r r' => r.word ≠ r'.word ∧ r.instr ≠ r'.instr) := by decide

/-- The decoder row by row: every mask is all ones, so a row matches its own word alone. -/
theorem decode_eq (w : Word) : decode w =
    if w = 1#32 then .ok .scr else if w = 2#32 then .ok .uscr else if w = 3#32 then .ok .chkv
    else if w = 0x10#32 then .ok .idrq else if w = 0x11#32 then .ok .dtrq else if w = 0x12#32 then .ok .wrpg
    else if cmdRsv w ≠ 0 then .error (.reservedBits (cmdRsv w)) else .error (.reservedOpcode (cmdOp w)) := by
  have hm : w &&& 0xFFFFFFFF#32 = w := BitVec.and_allOnes (x := w)
  simp only [decode, opTable, List.find?, hm]
  by_cases h1 : w = 1#32
  · simp [h1]
  by_cases h2 : w = 2#32
  · simp [h2]
  by_cases h3 : w = 3#32
  · simp [h3]
  by_cases h4 : w = 0x10#32
  · simp [h4]
  by_cases h5 : w = 0x11#32
  · simp [h5]
  by_cases h6 : w = 0x12#32
  · simp [h6]
  have b1 : (w == 1#32) = false := by simpa using h1
  have b2 : (w == 2#32) = false := by simpa using h2
  have b3 : (w == 3#32) = false := by simpa using h3
  have b4 : (w == 0x10#32) = false := by simpa using h4
  have b5 : (w == 0x11#32) = false := by simpa using h5
  have b6 : (w == 0x12#32) = false := by simpa using h6
  simp [b1, b2, b3, b4, b5, b6, h1, h2, h3, h4, h5, h6]

end Sys2Proof
end

