-- ==== Sys2Proof/Laws/Memory.lean ====
section
/-! SUPPORT. Laws of sequences and of stores: reading after a write, and the canonical form. -/

namespace Sys2Proof.Machine

/-! ## Sequences -/

theorem length_seg (s : List Byte) (a b : Nat) : (seg s a b).length = min (b - a) (s.length - a) := by
  simp [seg]

theorem getD_seg (s : List Byte) (a b i : Nat) (h : i < b - a) : byteAt (seg s a b) i = byteAt s (a + i) := by
  simp [byteAt, seg, List.getD_eq_getElem?_getD, List.getElem?_drop, h]

theorem seg_append_seg (s : List Byte) (a b c : Nat) (hab : a ≤ b) (hbc : b ≤ c) :
    seg s a b ++ seg s b c = seg s a c := by
  have hd : s.drop b = (s.drop a).drop (b - a) := by rw [List.drop_drop]; congr 1; omega
  have hc : c - a = (b - a) + (c - b) := by omega
  simp only [seg]
  rw [hd, hc, List.take_add]

theorem length_overlay (s : List Byte) (a : Nat) (t : List Byte) (h : a + t.length ≤ s.length) :
    (overlay s a t).length = s.length := by
  simp [overlay]; omega

/-- What an overlay holds at each offset. -/
theorem byteAt_overlay (s : List Byte) (a : Nat) (t : List Byte) (i : Nat) (h : a + t.length ≤ s.length) :
    byteAt (overlay s a t) i = if a ≤ i ∧ i < a + t.length then byteAt t (i - a) else byteAt s i := by
  simp only [byteAt, overlay, List.getD_eq_getElem?_getD, List.append_assoc, List.getElem?_append, List.length_take,
    List.getElem?_take, List.getElem?_drop]
  have : min a s.length = a := by omega
  rw [this]
  by_cases h1 : i < a
  · have : ¬ (a ≤ i ∧ i < a + t.length) := by omega
    simp [h1, this]
  · by_cases h2 : i < a + t.length
    · have h3 : i - a < t.length := by omega
      have h4 : a ≤ i ∧ i < a + t.length := by omega
      simp [h1, h3, h4]
    · have h3 : ¬ i - a < t.length := by omega
      have h4 : ¬ (a ≤ i ∧ i < a + t.length) := by omega
      have h5 : a + t.length + (i - a - t.length) = i := by omega
      simp [h1, h3, h4, h5]

@[simp] theorem byteSum_nil : byteSum [] = 0 := rfl

@[simp] theorem byteSum_cons (b : Byte) (s : List Byte) : byteSum (b :: s) = b.toNat + byteSum s := by
  simp [byteSum]

@[simp] theorem byteSum_append (s t : List Byte) : byteSum (s ++ t) = byteSum s + byteSum t := by
  simp [byteSum]

@[simp] theorem length_parts (k : Nat) (s : List Byte) : (parts k s).length = s.length / k := by
  simp [parts]

theorem getElem?_parts (k : Nat) (s : List Byte) (b : Nat) (h : b < s.length / k) :
    (parts k s)[b]? = some (seg s (k * b) (k * b + k)) := by
  simp [parts, h]

theorem length_of_mem_parts (k : Nat) (s fr : List Byte) (hk : 0 < k) (h : fr ∈ parts k s) : fr.length = k := by
  obtain ⟨b, hb, rfl⟩ := List.mem_map.1 h
  have hb' : b < s.length / k := List.mem_range.1 hb
  have h1 : k * b + k ≤ s.length := by
    have := Nat.mul_le_of_le_div k (b + 1) s.length hb'
    nlinarith
  rw [length_seg]
  omega

/-- A sequence of whole parts is the parts joined. -/
theorem flatten_parts (k n : Nat) (s : List Byte) (h : s.length = k * n) : (parts k s).flatten = s := by
  have key : ∀ m, m ≤ n → ((List.range m).map fun b => seg s (k * b) (k * b + k)).flatten = s.take (k * m) := by
    intro m
    induction m with
    | zero => intro _; simp
    | succ m ih =>
      intro hm
      rw [List.range_succ, List.map_append, List.flatten_append, ih (by omega)]
      simp only [List.map_cons, List.map_nil, List.flatten_cons, List.flatten_nil, List.append_nil]
      rw [Nat.mul_succ, List.take_add]
      simp [seg]
  rcases Nat.eq_zero_or_pos k with rfl | hk
  · simp only [Nat.zero_mul, List.length_eq_zero_iff] at h
    simp [parts, h]
  · have hn : s.length / k = n := by rw [h]; exact Nat.mul_div_cancel_left n hk
    rw [parts, hn, key n le_rfl, ← h, List.take_length]

/-- Where a concatenation of equally long pieces holds what. -/
theorem byteAt_flatMap {α : Type} (f : α → List Byte) (k : Nat) (xs : List α) (hf : ∀ x ∈ xs, (f x).length = k)
    (b : Nat) (x : α) (hx : xs[b]? = some x) (i : Nat) (hi : i < k) :
    (xs.flatMap f)[k * b + i]? = (f x)[i]? := by
  induction xs generalizing b with
  | nil => simp at hx
  | cons y ys ih =>
    have hy : (f y).length = k := hf y (by simp)
    rw [List.flatMap_cons]
    cases b with
    | zero =>
      simp only [List.getElem?_cons_zero, Option.some.injEq] at hx
      subst hx
      rw [Nat.mul_zero, Nat.zero_add, List.getElem?_append_left (by omega)]
    | succ b =>
      have h1 : k * (b + 1) + i = (f y).length + (k * b + i) := by rw [hy]; ring
      rw [h1, List.getElem?_append_right (by omega), Nat.add_sub_cancel_left]
      exact ih (fun x hx' => hf x (by simp [hx'])) b (by simpa using hx)

theorem length_flatMap_const {α : Type} (f : α → List Byte) (k : Nat) (xs : List α)
    (hf : ∀ x ∈ xs, (f x).length = k) : (xs.flatMap f).length = k * xs.length := by
  induction xs with
  | nil => simp
  | cons y ys ih =>
    rw [List.flatMap_cons, List.length_append, hf y (by simp), ih fun x hx => hf x (by simp [hx]), List.length_cons]
    ring

/-! ## Stores -/

variable {α : Type}

@[simp] theorem read_nil (a : Nat) : Cells.read ([] : Cells α) a = none := rfl

theorem read_cons (c : Nat × α) (m : Cells α) (a : Nat) :
    Cells.read (c :: m) a = if a = c.1 then some c.2 else Cells.read m a := by
  obtain ⟨k, v⟩ := c
  by_cases h : a = k
  · simp [Cells.read, h]
  · have hb : (a == k) = false := by simpa using h
    simp [Cells.read, List.lookup_cons, hb, h]

theorem read_append (m m' : Cells α) (a : Nat) :
    Cells.read (m ++ m') a = (Cells.read m a).or (Cells.read m' a) := by
  induction m with
  | nil => simp
  | cons c m ih => rw [List.cons_append, read_cons, read_cons, ih]; split <;> simp

theorem read_filter (m : Cells α) (p : Nat → Bool) (a : Nat) :
    Cells.read (m.filter fun c => p c.1) a = if p a then Cells.read m a else none := by
  induction m with
  | nil => simp
  | cons c m ih =>
    rw [List.filter_cons]
    by_cases hc : p c.1
    · simp only [hc, if_true]
      rw [read_cons, read_cons, ih]
      by_cases ha : a = c.1
      · simp [ha, hc]
      · simp [ha]
    · simp only [hc]
      rw [read_cons]
      by_cases ha : a = c.1
      · subst ha; simpa [hc] using ih
      · simpa [ha] using ih

theorem read_run (a : Nat) (bs : List α) (j : Nat) :
    Cells.read (Cells.run a bs) j = if a ≤ j then bs[j - a]? else none := by
  induction bs generalizing a with
  | nil => simp [Cells.run]
  | cons b bs ih =>
    rw [Cells.run, read_cons, ih]
    by_cases h : j = a
    · subst h; simp
    · by_cases h2 : a ≤ j
      · obtain ⟨d, rfl⟩ : ∃ d, j = a + 1 + d := ⟨j - a - 1, by omega⟩
        have e : a + 1 + d - a = d + 1 := by omega
        have e2 : a + 1 + d - (a + 1) = d := by omega
        simp [h, h2, e, e2]
      · have h3 : ¬ a + 1 ≤ j := by omega
        simp [h, h2, h3]

/-- Read after a write of consecutive values: a place written gives the value written, every other place is as before. -/
theorem read_putRun (m : Cells α) (a : Nat) (bs : List α) (j : Nat) :
    Cells.read (Cells.putRun m a bs) j
      = if a ≤ j ∧ j < a + bs.length then bs[j - a]? else Cells.read m j := by
  simp only [Cells.putRun, read_append, read_run]
  rw [read_filter m (fun k => decide (k < a)) j, read_filter m (fun k => decide (a + bs.length ≤ k)) j]
  by_cases h1 : j < a
  · have h2 : ¬ a ≤ j := by omega
    have h3 : ¬ a + bs.length ≤ j := by omega
    simp [h1, h2, h3]
  · have h2 : a ≤ j := by omega
    by_cases h3 : j < a + bs.length
    · have h4 : ¬ a + bs.length ≤ j := by omega
      simp [h1, h2, h3, h4]
    · have h4 : a + bs.length ≤ j := by omega
      have h5 : bs.length ≤ j - a := by omega
      simp [h1, h2, h3, h4, h5]

theorem read_put (m : Cells α) (a : Nat) (b : α) (j : Nat) :
    Cells.read (Cells.put m a b) j = if j = a then some b else Cells.read m j := by
  rw [Cells.put, read_putRun]
  by_cases h : j = a
  · subst h; simp
  · have : ¬ (a ≤ j ∧ j < a + [b].length) := by rw [List.length_singleton]; omega
    rw [if_neg this, if_neg h]

/-! ## The canonical form -/

theorem run_bounds (a : Nat) (bs : List α) : ∀ c ∈ Cells.run a bs, a ≤ c.1 ∧ c.1 < a + bs.length := by
  induction bs generalizing a with
  | nil => simp [Cells.run]
  | cons b bs ih =>
    intro c hc
    rw [Cells.run, List.mem_cons] at hc
    rcases hc with rfl | hc
    · simp
    · have := ih (a + 1) c hc
      rw [List.length_cons]; omega

theorem run_rising (a : Nat) (bs : List α) : (Cells.run a bs).Pairwise (fun c d => c.1 < d.1) := by
  induction bs generalizing a with
  | nil => exact List.Pairwise.nil
  | cons b bs ih =>
    rw [Cells.run]
    exact List.Pairwise.cons (fun c hc => (run_bounds (a + 1) bs c hc).1) (ih (a + 1))

/-- A write keeps the numbers strictly rising. -/
theorem putRun_rising (m : Cells α) (a : Nat) (bs : List α) (h : Cells.rising m = true) :
    Cells.rising (Cells.putRun m a bs) = true := by
  rw [Cells.rising, decide_eq_true_eq] at h ⊢
  rw [Cells.putRun, List.pairwise_append, List.pairwise_append]
  refine ⟨⟨h.filter _, run_rising a bs, ?_⟩, h.filter _, ?_⟩
  · intro c hc d hd
    have h1 := (List.mem_filter.1 hc).2
    have h2 := (run_bounds a bs d hd).1
    simp only [decide_eq_true_eq] at h1
    omega
  · intro c hc d hd
    have h2 := (List.mem_filter.1 hd).2
    simp only [decide_eq_true_eq] at h2
    rcases List.mem_append.1 hc with hc | hc
    · have h1 := (List.mem_filter.1 hc).2
      simp only [decide_eq_true_eq] at h1
      omega
    · have h1 := (run_bounds a bs c hc).2
      omega

/-- The empty buffer is canonical. -/
theorem wf_nil : Memory.wf [] = true := rfl

/-- A write inside the buffer keeps the buffer canonical. -/
theorem wf_putRun (m : Memory) (a : Nat) (bs : List Byte) (h : Memory.wf m = true) (hle : a + bs.length ≤ 2480) :
    Memory.wf (Cells.putRun m a bs) = true := by
  rw [Memory.wf, Bool.and_eq_true] at h ⊢
  refine ⟨putRun_rising m a bs h.1, ?_⟩
  rw [List.all_eq_true]
  intro c hc
  have h2 := List.all_eq_true.1 h.2
  rw [Cells.putRun, List.mem_append, List.mem_append] at hc
  rcases hc with (hc | hc) | hc
  · exact h2 c (List.mem_filter.1 hc).1
  · have := run_bounds a bs c hc
    simp only [decide_eq_true_eq, Config.bufCap]
    omega
  · exact h2 c (List.mem_filter.1 hc).1

theorem wf_put (m : Memory) (a : Nat) (b : Byte) (h : Memory.wf m = true) (ha : a < 2480) :
    Memory.wf (Cells.put m a b) = true :=
  wf_putRun m a [b] h (by simpa using ha)

end Sys2Proof.Machine
end

