-- ==== Sys2Proof/Laws/Packer.lean ====
section
/-! SUPPORT. Laws of the checksum, the packer and the messages: lengths, and what each output holds at each offset. -/

namespace Sys2Proof.Machine

/-! ## Checksum -/

theorem csum7_toNat (s : List Byte) : (csum7 s).toNat = (128 - byteSum s % 128) % 128 := by
  rw [csum7, BitVec.toNat_ofNat]
  exact Nat.mod_eq_of_lt (by omega)

theorem frameOK_iff (fr : List Byte) : frameOK fr = true ↔ byteSum (seg fr 8 154) % 128 = 0 := by
  simp [frameOK]

theorem firstBad_eq_none (frames : List (List Byte)) :
    firstBad frames = none ↔ ∀ fr ∈ frames, frameOK fr = true := by
  simp [firstBad, List.findIdx?_eq_none_iff]

/-- The first failing frame: it is one of the frames, it fails, and every frame before it passes. -/
theorem firstBad_eq_some (frames : List (List Byte)) (b : Nat) :
    firstBad frames = some b ↔
      ∃ h : b < frames.length, frameOK frames[b] = false ∧ ∀ c (hc : c < b), frameOK frames[c] = true := by
  simp [firstBad, List.findIdx?_eq_some_iff_getElem]

/-! ## Packing -/

@[simp] theorem length_packGroup (grp : List Byte) : (packGroup grp).length = grp.length + 1 := by
  simp [packGroup]

theorem length_groupOf (blk : List Byte) (g : Nat) (hb : blk.length = 125) (hg : g < 18) :
    (groupOf blk g).length = groupSize g := by
  rw [groupOf, length_seg, hb]
  simp only [groupSize, Config.nFull, Config.group, Config.lastG]
  split <;> omega

theorem byteAt_groupOf (blk : List Byte) (g k : Nat) (hk : k < groupSize g) :
    byteAt (groupOf blk g) k = byteAt blk (7 * g + k) := by
  rw [groupOf, getD_seg _ _ _ _ (by omega)]

/-- The frame as header, the 17 full groups, the last group and trailer. -/
theorem packBlock_split (blk : List Byte) :
    packBlock blk = List.replicate 10 0 ++ ((List.range 17).flatMap (fun g => packGroup (groupOf blk g))
      ++ (packGroup (groupOf blk 17) ++ List.replicate 2 0)) := by
  simp [packBlock, List.range_succ]

theorem length_fullGroups (blk : List Byte) (hb : blk.length = 125) :
    ((List.range 17).flatMap (fun g => packGroup (groupOf blk g))).length = 136 := by
  rw [length_flatMap_const _ 8 _ fun g hg => ?_, List.length_range]
  have hg' : g < 17 := List.mem_range.1 hg
  rw [length_packGroup, length_groupOf blk g hb (by omega), groupSize, if_pos (by simpa using hg')]

theorem length_packBlock (blk : List Byte) (hb : blk.length = 125) : (packBlock blk).length = 155 := by
  rw [packBlock_split, List.length_append, List.length_append, length_fullGroups blk hb, List.length_append,
    length_packGroup, length_groupOf blk 17 hb (by omega), List.length_replicate, List.length_replicate]
  decide

/-- The placeholder bytes of a scrambled frame (R66). -/
theorem packBlock_zero (blk : List Byte) (hb : blk.length = 125) (o : Nat) (ho : o < 10 ∨ o = 153 ∨ o = 154) :
    (packBlock blk)[o]? = some 0#8 := by
  rw [packBlock_split]
  by_cases h : o < 10
  · rw [List.getElem?_append_left (by simpa using h), List.getElem?_replicate, if_pos h]
    rfl
  · have h17 := length_fullGroups blk hb
    have hlast : (packGroup (groupOf blk 17)).length = 7 := by
      rw [length_packGroup, length_groupOf blk 17 hb (by omega)]; rfl
    rw [List.getElem?_append_right (by rw [List.length_replicate]; omega), List.length_replicate,
      List.getElem?_append_right (by rw [h17]; omega), h17, List.getElem?_append_right (by rw [hlast]; omega), hlast,
      List.getElem?_replicate, if_pos (by omega)]
    rfl

/-- Where group `g` stands in a scrambled frame (R67). -/
theorem packBlock_group (blk : List Byte) (hb : blk.length = 125) (g i : Nat) (hg : g < 18) (hi : i ≤ groupSize g) :
    (packBlock blk)[10 + 8 * g + i]? = (packGroup (groupOf blk g))[i]? := by
  rw [packBlock_split, List.getElem?_append_right (by simp; omega), List.length_replicate]
  have h17 := length_fullGroups blk hb
  by_cases h : g < 17
  · have hs : groupSize g = 7 := by rw [groupSize, if_pos (by simpa using h)]
    have e : 10 + 8 * g + i - 10 = 8 * g + i := by omega
    rw [e, List.getElem?_append_left (by omega)]
    refine byteAt_flatMap (fun g => packGroup (groupOf blk g)) 8 (List.range 17) (fun x hx => ?_) g g (by simp [h]) i
      (by omega)
    have hx' : x < 17 := List.mem_range.1 hx
    rw [length_packGroup, length_groupOf blk x hb (by omega), groupSize, if_pos (by simpa using hx')]
  · obtain rfl : g = 17 := by omega
    have hs : groupSize 17 = 6 := rfl
    have hlast : (packGroup (groupOf blk 17)).length = 7 := by
      rw [length_packGroup, length_groupOf blk 17 hb (by omega)]; rfl
    have e : 10 + 8 * 17 + i - 10 - 136 = i := by omega
    rw [List.getElem?_append_right (by omega), h17, e, List.getElem?_append_left (by omega)]

/-- The MSB byte of group `g` of a scrambled frame. -/
theorem packBlock_msb (blk : List Byte) (hb : blk.length = 125) (g : Nat) (hg : g < 18) :
    (packBlock blk)[10 + 8 * g]? = some (msbByte (groupOf blk g)) := by
  have := packBlock_group blk hb g 0 hg (Nat.zero_le _)
  simpa [packGroup] using this

/-- The data byte at position `k` of group `g` of a scrambled frame. -/
theorem packBlock_data (blk : List Byte) (hb : blk.length = 125) (g k : Nat) (hg : g < 18) (hk : k < groupSize g) :
    (packBlock blk)[11 + 8 * g + k]? = some (byteAt blk (7 * g + k) &&& 0x7F#8) := by
  have h := packBlock_group blk hb g (k + 1) hg hk
  have e : 10 + 8 * g + (k + 1) = 11 + 8 * g + k := by omega
  have hl : k < (groupOf blk g).length := by rw [length_groupOf blk g hb hg]; exact hk
  rw [e] at h
  rw [h, packGroup, List.getElem?_cons_succ, List.getElem?_map, List.getElem?_eq_getElem hl, Option.map_some,
    ← byteAt_groupOf blk g k hk, byteAt, List.getD_eq_getElem?_getD, List.getElem?_eq_getElem hl]
  rfl

/-- A sum of bits, the first at weight 2^j and each next one at half the weight, read bit by bit. -/
theorem bitSum_spec (bs : List Byte) (j : Nat) (hl : bs.length ≤ j + 1) :
    let n := (bs.mapIdx fun k b => (b.getLsbD 7).toNat <<< (j - k)).sum
    n < 2 ^ (j + 1) ∧ (∀ k, k < bs.length → n.testBit (j - k) = (byteAt bs k).getLsbD 7)
      ∧ ∀ i, i + bs.length < j + 1 → n.testBit i = false := by
  induction bs generalizing j with
  | nil => simp
  | cons b bs ih =>
    have hb : (b.getLsbD 7).toNat < 2 := by cases b.getLsbD 7 <;> decide
    have hbit : (b.getLsbD 7).toNat.testBit 0 = b.getLsbD 7 := by cases b.getLsbD 7 <;> decide
    rw [List.length_cons] at hl
    rw [List.mapIdx_cons, List.sum_cons, Nat.sub_zero, Nat.shiftLeft_eq, Nat.mul_comm]
    cases j with
    | zero =>
      obtain rfl : bs = [] := List.length_eq_zero_iff.1 (by omega)
      refine ⟨by simpa using hb, ?_, by simp⟩
      intro k hk
      obtain rfl : k = 0 := by simpa using hk
      simpa [byteAt] using hbit
    | succ j =>
      obtain ⟨h1, h2, h3⟩ := ih j (by omega)
      have hsum : (bs.mapIdx fun k b => (b.getLsbD 7).toNat <<< (j + 1 - (k + 1)))
          = bs.mapIdx fun k b => (b.getLsbD 7).toNat <<< (j - k) := by simp
      simp only [hsum]
      refine ⟨?_, ?_, ?_⟩
      · have := Nat.mul_le_mul_left (2 ^ (j + 1)) (Nat.le_of_lt_succ hb)
        rw [pow_succ 2 (j + 1)]
        omega
      · intro k hk
        rw [Nat.testBit_two_pow_mul_add _ h1]
        cases k with
        | zero => simpa [byteAt] using hbit
        | succ k =>
          rw [List.length_cons] at hk
          rw [if_pos (by omega)]
          have e : j + 1 - (k + 1) = j - k := by omega
          rw [e, h2 k (by omega)]
          simp [byteAt]
      · intro i hi
        rw [List.length_cons] at hi
        rw [Nat.testBit_two_pow_mul_add _ h1, if_pos (by omega)]
        exact h3 i (by omega)

theorem msbByte_getLsbD (grp : List Byte) (i : Nat) (hi : i < 8) :
    (msbByte grp).getLsbD i = ((grp.mapIdx fun k b => (b.getLsbD 7).toNat <<< (6 - k)).sum).testBit i := by
  rw [msbByte, BitVec.getLsbD_ofNat]
  simp only [hi, decide_true, Bool.true_and]

/-- Bit 6−k of an MSB byte is bit 7 of the byte at position `k` (R68). -/
theorem msbByte_bit (grp : List Byte) (hl : grp.length ≤ 7) (k : Nat) (hk : k < grp.length) :
    (msbByte grp).getLsbD (6 - k) = (byteAt grp k).getLsbD 7 := by
  rw [msbByte_getLsbD grp _ (by omega)]
  exact (bitSum_spec grp 6 hl).2.1 k hk

/-- Bit 7 of an MSB byte is 0 (R68). -/
theorem msbByte_bit7 (grp : List Byte) (hl : grp.length ≤ 7) : (msbByte grp).getLsbD 7 = false := by
  rw [msbByte_getLsbD grp _ (by omega)]
  exact Nat.testBit_lt_two_pow (bitSum_spec grp 6 hl).1

/-- The bits of an MSB byte below its group's positions are 0 (R68). -/
theorem msbByte_low (grp : List Byte) (i : Nat) (hi : i + grp.length < 7) : (msbByte grp).getLsbD i = false := by
  rw [msbByte_getLsbD grp _ (by omega)]
  exact (bitSum_spec grp 6 (by omega)).2.2 i hi

/-! ## Sequences of frames and blocks -/

theorem length_scramble (s : List Byte) (n : Nat) (h : s.length = 125 * n) : (scramble s).length = 155 * n := by
  rw [scramble, length_flatMap_const _ 155 _ fun x hx => length_packBlock x (length_of_mem_parts 125 s x (by decide) hx),
    length_parts, h]
  simp

/-- Byte `i` of frame `b` of a scrambled sequence is byte `i` of the packed block `b` (R87). -/
theorem scramble_frame (s : List Byte) (n b i : Nat) (h : s.length = 125 * n) (hb : b < n) (hi : i < 155) :
    (scramble s)[155 * b + i]? = (packBlock (seg s (125 * b) (125 * b + 125)))[i]? := by
  refine byteAt_flatMap packBlock 155 (parts 125 s)
    (fun x hx => length_packBlock x (length_of_mem_parts 125 s x (by decide) hx)) b _ ?_ i hi
  exact getElem?_parts 125 s b (by rw [h]; simpa using hb)

@[simp] theorem length_unpackFrame (fr : List Byte) : (unpackFrame fr).length = 125 := by simp [unpackFrame]

/-- Byte `j` of an unpacked frame (R86). -/
theorem unpackFrame_getElem? (fr : List Byte) (j : Nat) (hj : j < 125) :
    (unpackFrame fr)[j]?
      = some (unpackByte (byteAt fr (10 + 8 * (j / 7))) (byteAt fr (11 + 8 * (j / 7) + j % 7)) (j % 7)) := by
  simp [unpackFrame, hj]

/-- The length of unscrambled data. -/
theorem length_unpacked (s : List Byte) :
    ((parts 155 s).flatMap unpackFrame).length = 125 * (s.length / 155) := by
  rw [length_flatMap_const _ 125 _ fun x _ => length_unpackFrame x, length_parts]

/-! ## Messages -/

@[simp] theorem length_split14 (v : Nat) : (split14 v).length = 2 := rfl

@[simp] theorem length_wrHdrBytes : Config.wrHdrBytes.length = 8 := by simp [Config.wrHdrBytes]

@[simp] theorem length_rqHdrBytes : Config.rqHdrBytes.length = Config.rqHdrLen.val := by simp [Config.rqHdrBytes]

@[simp] theorem length_idReqBytes : Config.idReqBytes.length = 5 := by simp [Config.idReqBytes]

theorem wrHdrBytes_getElem? (j : Nat) (h : j < 8) : Config.wrHdrBytes[j]? = some (Config.wrHdr ⟨j, h⟩) := by
  rw [Config.wrHdrBytes, List.getElem?_ofFn, dif_pos h]

theorem rqHdrBytes_getElem? (j : Nat) (h : j < Config.rqHdrLen.val) :
    Config.rqHdrBytes[j]? = some (Config.rqHdr ⟨j, h⟩) := by
  rw [Config.rqHdrBytes, List.getElem?_ofFn, dif_pos h]

theorem idReqBytes_getElem? (j : Nat) (h : j < 5) : Config.idReqBytes[j]? = some (Config.idReq ⟨j, h⟩) := by
  rw [Config.idReqBytes, List.getElem?_ofFn, dif_pos h]

@[simp] theorem length_identifyRequest : identifyRequest.length = 5 := by simp [identifyRequest]

@[simp] theorem length_dataRequest (p c : Nat) : (dataRequest p c).length = Config.rqHdrLen.val + 6 := by
  simp [dataRequest, requestFields]

/-- A Write Page frame has the length of its input. -/
theorem length_writePage (f : List Byte) (p : Nat) (h : f.length = 155) : (writePage f p).length = 155 := by
  simp only [writePage]
  have h1 : (overlay f Config.hdrOff Config.wrHdrBytes).length = 155 := by
    rw [length_overlay _ _ _ (by simp [h]), h]
  have h2 : (overlay (overlay f Config.hdrOff Config.wrHdrBytes) Config.addrOff (split14 p)).length = 155 := by
    rw [length_overlay _ _ _ (by simp [h1]), h1]
  rw [length_overlay _ _ _ (by rw [length_overlay _ _ _ (by simp [h2])]; simp [h2]),
    length_overlay _ _ _ (by simp [h2]), h2]

/-! ## Seven-bit bytes -/

theorem toNat_ofNat8 (n : Nat) (h : n < 256) : (BitVec.ofNat 8 n).toNat = n := by
  rw [BitVec.toNat_ofNat]; exact Nat.mod_eq_of_lt h

/-- A masked data byte is below 0x80 (R83). -/
theorem and7F_lt (b : Byte) : (b &&& 0x7F#8).toNat < 128 := by
  have := Nat.and_two_pow_sub_one_eq_mod b.toNat 7
  simp at this ⊢; omega

/-- Every byte of a packed block is below 0x80 (R84). -/
theorem packBlock_lt (blk : List Byte) (hl : ∀ g, g < 18 → (groupOf blk g).length ≤ 7) : ∀ b ∈ packBlock blk, b.toNat < 128 := by
  intro b hb
  simp only [packBlock, List.mem_append, List.mem_flatMap, List.mem_replicate, List.mem_range] at hb
  rcases hb with (⟨_, rfl⟩ | ⟨g, hg, hb⟩) | ⟨_, rfl⟩
  · decide
  · simp only [packGroup, List.mem_cons, List.mem_map] at hb
    rcases hb with rfl | ⟨x, _, rfl⟩
    · have := msbByte_bit7 (groupOf blk g) (hl g hg)
      have h8 := (msbByte (groupOf blk g)).isLt
      by_contra hc
      have : (msbByte (groupOf blk g)).toNat.testBit 7 = true := by
        rw [Nat.testBit_eq_decide_div_mod_eq]; simp; omega
      rw [BitVec.testBit_toNat] at this; simp_all
    · exact and7F_lt x
  · decide

/-! ## Unpacking what was packed -/

/-- A data byte and its MSB byte give the original byte back (R83, R85). -/
theorem unpackByte_packed (g : List Byte) (hl : g.length ≤ 7) (k : Nat) (hk : k < g.length) :
   unpackByte (msbByte g) (byteAt g k &&& 0x7F#8) k = byteAt g k := by
  have h := msbByte_bit g hl k hk
  have hbit : (msbByte g <<< (k+1)).getLsbD 7 = (byteAt g k).getLsbD 7 := by
    rw [BitVec.getLsbD_shiftLeft]
    have e : 7 - (k+1) = 6 - k := by omega
    have e2 : decide (7 < k + 1) = false := by rw [decide_eq_false_iff_not]; omega
    rw [e, e2, h]; simp
  simp only [unpackByte]
  generalize msbByte g <<< (k+1) = x at hbit
  generalize byteAt g k = y at hbit
  have hx : ∀ x : Byte, x &&& 0x80#8 = if x.getLsbD 7 = true then 0x80#8 else 0#8 := by decide
  rw [hx, hbit]
  clear hbit hx h
  revert y; decide

/-- A frame whose payload is a packed block's unpacks to that block, whatever its header, checksum and terminator. -/
theorem unpackFrame_of_payload (x fr : List Byte) (hx : x.length = 125) (hp : ∀ o, 10 ≤ o → o < 153 → fr[o]? = (packBlock x)[o]?) :
   unpackFrame fr = x := by
  apply List.ext_getElem?
  intro j
  by_cases hj : j < 125
  · rw [unpackFrame_getElem? fr j hj]
    have hg : j / 7 < 18 := by omega
    have hsz : groupSize (j/7) = if j / 7 < 17 then 7 else 6 := rfl
    have hk : j % 7 < groupSize (j/7) := by rw [hsz]; split <;> omega
    have h7 : groupSize (j/7) ≤ 7 := by rw [hsz]; split <;> omega
    have h1 : byteAt fr (10 + 8*(j/7)) = msbByte (groupOf x (j/7)) := by
      rw [byteAt, List.getD_eq_getElem?_getD, hp _ (by omega) (by omega), packBlock_msb x hx _ hg]; rfl
    have h2 : byteAt fr (11 + 8*(j/7) + j%7) = byteAt (groupOf x (j/7)) (j%7) &&& 0x7F#8 := by
      rw [byteAt, List.getD_eq_getElem?_getD, hp _ (by omega) (by rw [hsz] at hk; split at hk <;> omega), packBlock_data x hx _ _ hg hk, byteAt_groupOf x _ _ hk]; rfl
    have hlen := length_groupOf x (j/7) hx hg
    rw [h1, h2, unpackByte_packed _ (by omega) _ (by omega), byteAt_groupOf x _ _ hk]
    have e : 7 * (j/7) + j % 7 = j := by omega
    rw [e, byteAt, List.getD_eq_getElem?_getD, List.getElem?_eq_getElem (by omega)]; rfl
  · rw [List.getElem?_eq_none (by simp; omega), List.getElem?_eq_none (by omega)]

/-! ## The Write Page frame -/

/-- The Write Page frame, byte by byte (R111). -/
theorem writePage_bytes (f : List Byte) (p : Nat) (hf : f.length = 155) (j : Nat) (hj : j < 155) :
    byteAt (writePage f p) j = if j < 8 then byteAt Config.wrHdrBytes j else if j < 10 then byteAt (split14 p) (j-8)
      else if j < 153 then byteAt f j else if j = 153 then csum7 (split14 p ++ seg f 10 153) else Config.eox := by
  simp only [writePage]
  set f1 := overlay f Config.hdrOff Config.wrHdrBytes with hf1
  have l1 : f1.length = 155 := by rw [hf1, length_overlay _ _ _ (by simp [hf]), hf]
  set f2 := overlay f1 Config.addrOff (split14 p) with hf2
  have l2 : f2.length = 155 := by rw [hf2, length_overlay _ _ _ (by simp [l1]), l1]
  set f3 := overlay f2 Config.csumOff [csum7 (seg f2 8 153)] with hf3
  have l3 : f3.length = 155 := by rw [hf3, length_overlay _ _ _ (by simp [l2]), l2]
  have b1 : ∀ j, byteAt f1 j = if j < 8 then byteAt Config.wrHdrBytes j else byteAt f j := by
    intro j; rw [hf1, byteAt_overlay _ _ _ _ (by simp [hf])]; simp
  have b2 : ∀ j, byteAt f2 j = if 8 ≤ j ∧ j < 10 then byteAt (split14 p) (j-8) else byteAt f1 j := by
    intro j; rw [hf2, byteAt_overlay _ _ _ _ (by simp [l1])]; simp only [Config.addrOff, length_split14]; rfl
  have hs : seg f2 8 153 = split14 p ++ seg f 10 153 := by
    apply List.ext_getElem
    · rw [List.length_append, length_seg, length_seg, l2, hf]; simp
    · intro i h1 h2
      have g1 : (seg f2 8 153)[i] = byteAt (seg f2 8 153) i := by simp [byteAt, List.getD_eq_getElem?_getD, h1]
      have g2 : (split14 p ++ seg f 10 153)[i] = byteAt (split14 p ++ seg f 10 153) i := by simp only [byteAt, List.getD_eq_getElem?_getD, List.getElem?_eq_getElem h2, Option.getD_some]
      rw [length_seg, l2] at h1
      rw [g1, g2, getD_seg _ _ _ _ (by omega), b2, b1]
      by_cases hi : i < 2
      · rw [if_pos (by omega)]; simp only [byteAt, List.getD_eq_getElem?_getD]; rw [List.getElem?_append_left (by simpa using hi)]; congr 3; omega
      · rw [if_neg (by omega), if_neg (by omega)]
        simp only [byteAt, List.getD_eq_getElem?_getD]; rw [List.getElem?_append_right (by simp; omega)]
        simp only [seg]; rw [List.getElem?_take, if_pos (by simp; omega), List.getElem?_drop]; congr 2; simp; omega
  rw [byteAt_overlay _ _ _ _ (by simp [l3]), hf3, byteAt_overlay _ _ _ _ (by simp [l2]), hs, b2, b1]
  simp only [Config.eoxOff, Config.csumOff, List.length_singleton]
  rcases Nat.lt_or_ge j 8 with h | h
  · simp [h]; rw [if_neg (by omega), if_neg (by omega), if_neg (by omega)]
  rcases Nat.lt_or_ge j 10 with h' | h'
  · rw [if_neg (by omega), if_neg (by omega), if_pos (by omega), if_neg (by omega), if_pos (by omega)]
  rcases Nat.lt_or_ge j 153 with h'' | h''
  · rw [if_neg (by omega), if_neg (by omega), if_neg (by omega), if_neg (by omega), if_neg (by omega), if_neg (by omega), if_pos (by omega)]
  · have : j = 153 ∨ j = 154 := by omega
    rcases this with rfl | rfl <;> simp [byteAt]

/-- The sum that the checksum of a Write Page frame completes (R112). -/
theorem writePage_sum (f : List Byte) (p : Nat) (hp : p ≤ 0x3FFF) :
   (p / 128 + p % 128 + byteSum (seg f 10 153) + (csum7 (split14 p ++ seg f 10 153)).toNat) % 128 = 0 := by
  rw [csum7_toNat]
  have : byteSum (split14 p ++ seg f 10 153) = p/128 + p%128 + byteSum (seg f 10 153) := by
    simp only [split14, byteSum_append, byteSum_cons, byteSum_nil]
    rw [toNat_ofNat8 _ (by omega), toNat_ofNat8 _ (by omega)]; omega
  rw [this]; omega

end Sys2Proof.Machine
end

