-- ==== Sys2Proof/Laws/State.lean ====
section
/-! SUPPORT. One lemma per field per update of State and of the HOST, so that no later proof unfolds a record update. -/

namespace Sys2Proof.Machine

variable (s : State)

@[simp] theorem startCommand_cmd (v : Word) : (s.startCommand v).cmd = v := rfl
@[simp] theorem startCommand_busy (v : Word) : (s.startCommand v).busy = true := rfl
@[simp] theorem startCommand_done (v : Word) : (s.startCommand v).done = false := rfl
@[simp] theorem startCommand_result (v : Word) : (s.startCommand v).result = .ok := rfl
@[simp] theorem startCommand_ilen (v : Word) : (s.startCommand v).ilen = s.ilen := rfl
@[simp] theorem startCommand_olen (v : Word) : (s.startCommand v).olen = s.olen := rfl
@[simp] theorem startCommand_page (v : Word) : (s.startCommand v).page = s.page := rfl
@[simp] theorem startCommand_count (v : Word) : (s.startCommand v).count = s.count := rfl
@[simp] theorem startCommand_errblk (v : Word) : (s.startCommand v).errblk = s.errblk := rfl
@[simp] theorem startCommand_ibuf (v : Word) : (s.startCommand v).ibuf = s.ibuf := rfl
@[simp] theorem startCommand_obuf (v : Word) : (s.startCommand v).obuf = s.obuf := rfl
@[simp] theorem startCommand_fault (v : Word) : (s.startCommand v).fault = s.fault := rfl
@[simp] theorem startCommand_draws (v : Word) : (s.startCommand v).draws = s.draws := rfl
@[simp] theorem startCommand_host (v : Word) : (s.startCommand v).host = s.host := rfl
@[simp] theorem startCommand_turns (v : Word) : (s.startCommand v).turns = s.turns := rfl

@[simp] theorem writeOutput_cmd (out : List Byte) : (s.writeOutput out).cmd = s.cmd := rfl
@[simp] theorem writeOutput_busy (out : List Byte) : (s.writeOutput out).busy = s.busy := rfl
@[simp] theorem writeOutput_done (out : List Byte) : (s.writeOutput out).done = s.done := rfl
@[simp] theorem writeOutput_result (out : List Byte) : (s.writeOutput out).result = s.result := rfl
@[simp] theorem writeOutput_ilen (out : List Byte) : (s.writeOutput out).ilen = s.ilen := rfl
@[simp] theorem writeOutput_olen (out : List Byte) : (s.writeOutput out).olen = BitVec.ofNat 16 out.length := rfl
@[simp] theorem writeOutput_page (out : List Byte) : (s.writeOutput out).page = s.page := rfl
@[simp] theorem writeOutput_count (out : List Byte) : (s.writeOutput out).count = s.count := rfl
@[simp] theorem writeOutput_errblk (out : List Byte) : (s.writeOutput out).errblk = s.errblk := rfl
@[simp] theorem writeOutput_ibuf (out : List Byte) : (s.writeOutput out).ibuf = s.ibuf := rfl
@[simp] theorem writeOutput_obuf (out : List Byte) : (s.writeOutput out).obuf = Cells.putRun s.obuf 0 out := rfl
@[simp] theorem writeOutput_fault (out : List Byte) : (s.writeOutput out).fault = s.fault := rfl
@[simp] theorem writeOutput_draws (out : List Byte) : (s.writeOutput out).draws = s.draws := rfl
@[simp] theorem writeOutput_host (out : List Byte) : (s.writeOutput out).host = s.host := rfl
@[simp] theorem writeOutput_turns (out : List Byte) : (s.writeOutput out).turns = s.turns := rfl

@[simp] theorem clearOlen_cmd : (s.clearOlen).cmd = s.cmd := rfl
@[simp] theorem clearOlen_busy : (s.clearOlen).busy = s.busy := rfl
@[simp] theorem clearOlen_done : (s.clearOlen).done = s.done := rfl
@[simp] theorem clearOlen_result : (s.clearOlen).result = s.result := rfl
@[simp] theorem clearOlen_ilen : (s.clearOlen).ilen = s.ilen := rfl
@[simp] theorem clearOlen_olen : (s.clearOlen).olen = 0 := rfl
@[simp] theorem clearOlen_page : (s.clearOlen).page = s.page := rfl
@[simp] theorem clearOlen_count : (s.clearOlen).count = s.count := rfl
@[simp] theorem clearOlen_errblk : (s.clearOlen).errblk = s.errblk := rfl
@[simp] theorem clearOlen_ibuf : (s.clearOlen).ibuf = s.ibuf := rfl
@[simp] theorem clearOlen_obuf : (s.clearOlen).obuf = s.obuf := rfl
@[simp] theorem clearOlen_fault : (s.clearOlen).fault = s.fault := rfl
@[simp] theorem clearOlen_draws : (s.clearOlen).draws = s.draws := rfl
@[simp] theorem clearOlen_host : (s.clearOlen).host = s.host := rfl
@[simp] theorem clearOlen_turns : (s.clearOlen).turns = s.turns := rfl

@[simp] theorem setErrblk_cmd (b : Nat) : (s.setErrblk b).cmd = s.cmd := rfl
@[simp] theorem setErrblk_busy (b : Nat) : (s.setErrblk b).busy = s.busy := rfl
@[simp] theorem setErrblk_done (b : Nat) : (s.setErrblk b).done = s.done := rfl
@[simp] theorem setErrblk_result (b : Nat) : (s.setErrblk b).result = s.result := rfl
@[simp] theorem setErrblk_ilen (b : Nat) : (s.setErrblk b).ilen = s.ilen := rfl
@[simp] theorem setErrblk_olen (b : Nat) : (s.setErrblk b).olen = s.olen := rfl
@[simp] theorem setErrblk_page (b : Nat) : (s.setErrblk b).page = s.page := rfl
@[simp] theorem setErrblk_count (b : Nat) : (s.setErrblk b).count = s.count := rfl
@[simp] theorem setErrblk_errblk (b : Nat) : (s.setErrblk b).errblk = BitVec.ofNat 16 b := rfl
@[simp] theorem setErrblk_ibuf (b : Nat) : (s.setErrblk b).ibuf = s.ibuf := rfl
@[simp] theorem setErrblk_obuf (b : Nat) : (s.setErrblk b).obuf = s.obuf := rfl
@[simp] theorem setErrblk_fault (b : Nat) : (s.setErrblk b).fault = s.fault := rfl
@[simp] theorem setErrblk_draws (b : Nat) : (s.setErrblk b).draws = s.draws := rfl
@[simp] theorem setErrblk_host (b : Nat) : (s.setErrblk b).host = s.host := rfl
@[simp] theorem setErrblk_turns (b : Nat) : (s.setErrblk b).turns = s.turns := rfl

@[simp] theorem finish_cmd (c : ResultCode) : (s.finish c).cmd = s.cmd := rfl
@[simp] theorem finish_busy (c : ResultCode) : (s.finish c).busy = false := rfl
@[simp] theorem finish_done (c : ResultCode) : (s.finish c).done = true := rfl
@[simp] theorem finish_result (c : ResultCode) : (s.finish c).result = c := rfl
@[simp] theorem finish_ilen (c : ResultCode) : (s.finish c).ilen = s.ilen := rfl
@[simp] theorem finish_olen (c : ResultCode) : (s.finish c).olen = if c = .ok then s.olen else 0 := rfl
@[simp] theorem finish_page (c : ResultCode) : (s.finish c).page = s.page := rfl
@[simp] theorem finish_count (c : ResultCode) : (s.finish c).count = s.count := rfl
@[simp] theorem finish_errblk (c : ResultCode) : (s.finish c).errblk = if c = .checksumError then s.errblk else 0 := rfl
@[simp] theorem finish_ibuf (c : ResultCode) : (s.finish c).ibuf = s.ibuf := rfl
@[simp] theorem finish_obuf (c : ResultCode) : (s.finish c).obuf = if c = .ok then s.obuf else [] := rfl
@[simp] theorem finish_fault (c : ResultCode) : (s.finish c).fault = s.fault := rfl
@[simp] theorem finish_draws (c : ResultCode) : (s.finish c).draws = s.draws := rfl
@[simp] theorem finish_host (c : ResultCode) : (s.finish c).host = s.host := rfl
@[simp] theorem finish_turns (c : ResultCode) : (s.finish c).turns = s.turns := rfl

@[simp] theorem drawn_cmd (n : Nat) : (s.drawn n).cmd = s.cmd := rfl
@[simp] theorem drawn_busy (n : Nat) : (s.drawn n).busy = s.busy := rfl
@[simp] theorem drawn_done (n : Nat) : (s.drawn n).done = s.done := rfl
@[simp] theorem drawn_result (n : Nat) : (s.drawn n).result = s.result := rfl
@[simp] theorem drawn_ilen (n : Nat) : (s.drawn n).ilen = s.ilen := rfl
@[simp] theorem drawn_olen (n : Nat) : (s.drawn n).olen = s.olen := rfl
@[simp] theorem drawn_page (n : Nat) : (s.drawn n).page = s.page := rfl
@[simp] theorem drawn_count (n : Nat) : (s.drawn n).count = s.count := rfl
@[simp] theorem drawn_errblk (n : Nat) : (s.drawn n).errblk = s.errblk := rfl
@[simp] theorem drawn_ibuf (n : Nat) : (s.drawn n).ibuf = s.ibuf := rfl
@[simp] theorem drawn_obuf (n : Nat) : (s.drawn n).obuf = s.obuf := rfl
@[simp] theorem drawn_fault (n : Nat) : (s.drawn n).fault = s.fault := rfl
@[simp] theorem drawn_draws (n : Nat) : (s.drawn n).draws = s.draws + n := rfl
@[simp] theorem drawn_host (n : Nat) : (s.drawn n).host = s.host := rfl
@[simp] theorem drawn_turns (n : Nat) : (s.drawn n).turns = s.turns := rfl

@[simp] theorem recordFault_cmd (f : Fault) : (s.recordFault f).cmd = s.cmd := rfl
@[simp] theorem recordFault_busy (f : Fault) : (s.recordFault f).busy = s.busy := rfl
@[simp] theorem recordFault_done (f : Fault) : (s.recordFault f).done = s.done := rfl
@[simp] theorem recordFault_result (f : Fault) : (s.recordFault f).result = s.result := rfl
@[simp] theorem recordFault_ilen (f : Fault) : (s.recordFault f).ilen = s.ilen := rfl
@[simp] theorem recordFault_olen (f : Fault) : (s.recordFault f).olen = s.olen := rfl
@[simp] theorem recordFault_page (f : Fault) : (s.recordFault f).page = s.page := rfl
@[simp] theorem recordFault_count (f : Fault) : (s.recordFault f).count = s.count := rfl
@[simp] theorem recordFault_errblk (f : Fault) : (s.recordFault f).errblk = s.errblk := rfl
@[simp] theorem recordFault_ibuf (f : Fault) : (s.recordFault f).ibuf = s.ibuf := rfl
@[simp] theorem recordFault_obuf (f : Fault) : (s.recordFault f).obuf = s.obuf := rfl
@[simp] theorem recordFault_fault (f : Fault) : (s.recordFault f).fault = some f := rfl
@[simp] theorem recordFault_draws (f : Fault) : (s.recordFault f).draws = s.draws := rfl
@[simp] theorem recordFault_host (f : Fault) : (s.recordFault f).host = s.host := rfl
@[simp] theorem recordFault_turns (f : Fault) : (s.recordFault f).turns = s.turns := rfl

@[simp] theorem refuse_cmd (f : Fault) (t : Transaction) : (s.refuse f t).cmd = s.cmd := rfl
@[simp] theorem refuse_busy (f : Fault) (t : Transaction) : (s.refuse f t).busy = s.busy := rfl
@[simp] theorem refuse_done (f : Fault) (t : Transaction) : (s.refuse f t).done = s.done := rfl
@[simp] theorem refuse_result (f : Fault) (t : Transaction) : (s.refuse f t).result = s.result := rfl
@[simp] theorem refuse_ilen (f : Fault) (t : Transaction) : (s.refuse f t).ilen = s.ilen := rfl
@[simp] theorem refuse_olen (f : Fault) (t : Transaction) : (s.refuse f t).olen = s.olen := rfl
@[simp] theorem refuse_page (f : Fault) (t : Transaction) : (s.refuse f t).page = s.page := rfl
@[simp] theorem refuse_count (f : Fault) (t : Transaction) : (s.refuse f t).count = s.count := rfl
@[simp] theorem refuse_errblk (f : Fault) (t : Transaction) : (s.refuse f t).errblk = s.errblk := rfl
@[simp] theorem refuse_ibuf (f : Fault) (t : Transaction) : (s.refuse f t).ibuf = s.ibuf := rfl
@[simp] theorem refuse_obuf (f : Fault) (t : Transaction) : (s.refuse f t).obuf = s.obuf := rfl
@[simp] theorem refuse_fault (f : Fault) (t : Transaction) : (s.refuse f t).fault = some f := rfl
@[simp] theorem refuse_draws (f : Fault) (t : Transaction) : (s.refuse f t).draws = s.draws := rfl
@[simp] theorem refuse_host (f : Fault) (t : Transaction) : (s.refuse f t).host = s.host.note t := rfl
@[simp] theorem refuse_turns (f : Fault) (t : Transaction) : (s.refuse f t).turns = s.turns := rfl

@[simp] theorem note_script (h : HostAgent) (t : Transaction) : (h.note t).script = h.script := rfl
@[simp] theorem note_pc (h : HostAgent) (t : Transaction) : (h.note t).pc = h.pc := rfl
@[simp] theorem note_vars (h : HostAgent) (t : Transaction) : (h.note t).vars = h.vars := rfl
@[simp] theorem note_failed (h : HostAgent) (t : Transaction) : (h.note t).failed = h.failed := rfl
@[simp] theorem note_trace (h : HostAgent) (t : Transaction) : (h.note t).trace = t :: h.trace := rfl

@[simp] theorem made_script (h : HostAgent) (pc : Nat) (t : Transaction) : (h.made pc t).script = h.script := rfl
@[simp] theorem made_pc (h : HostAgent) (pc : Nat) (t : Transaction) : (h.made pc t).pc = pc := rfl
@[simp] theorem made_vars (h : HostAgent) (pc : Nat) (t : Transaction) : (h.made pc t).vars = h.vars := rfl
@[simp] theorem made_failed (h : HostAgent) (pc : Nat) (t : Transaction) : (h.made pc t).failed = h.failed := rfl
@[simp] theorem made_trace (h : HostAgent) (pc : Nat) (t : Transaction) : (h.made pc t).trace = t :: h.trace := rfl

@[simp] theorem keep_script (h : HostAgent) (d : Option HostVar) (v : Word) : (h.keep d v).script = h.script := by cases d <;> rfl
@[simp] theorem keep_pc (h : HostAgent) (d : Option HostVar) (v : Word) : (h.keep d v).pc = h.pc := by cases d <;> rfl
@[simp] theorem keep_failed (h : HostAgent) (d : Option HostVar) (v : Word) : (h.keep d v).failed = h.failed := by cases d <;> rfl
@[simp] theorem keep_trace (h : HostAgent) (d : Option HostVar) (v : Word) : (h.keep d v).trace = h.trace := by cases d <;> rfl

@[simp] theorem resetInput_cmd : (s.resetInput).cmd = 0 := rfl
@[simp] theorem resetInput_busy : (s.resetInput).busy = false := rfl
@[simp] theorem resetInput_done : (s.resetInput).done = false := rfl
@[simp] theorem resetInput_result : (s.resetInput).result = .ok := rfl
@[simp] theorem resetInput_ilen : (s.resetInput).ilen = 0 := rfl
@[simp] theorem resetInput_olen : (s.resetInput).olen = 0 := rfl
@[simp] theorem resetInput_page : (s.resetInput).page = 0 := rfl
@[simp] theorem resetInput_count : (s.resetInput).count = 0 := rfl
@[simp] theorem resetInput_errblk : (s.resetInput).errblk = 0 := rfl
@[simp] theorem resetInput_ibuf : (s.resetInput).ibuf = [] := rfl
@[simp] theorem resetInput_obuf : (s.resetInput).obuf = [] := rfl
@[simp] theorem resetInput_fault : (s.resetInput).fault = s.fault := rfl
@[simp] theorem resetInput_draws : (s.resetInput).draws = s.draws := rfl
@[simp] theorem resetInput_host : (s.resetInput).host = s.host := rfl
@[simp] theorem resetInput_turns : (s.resetInput).turns = s.turns := rfl

@[simp] theorem popTurn_cmd : (s.popTurn).cmd = s.cmd := rfl
@[simp] theorem popTurn_busy : (s.popTurn).busy = s.busy := rfl
@[simp] theorem popTurn_done : (s.popTurn).done = s.done := rfl
@[simp] theorem popTurn_result : (s.popTurn).result = s.result := rfl
@[simp] theorem popTurn_ilen : (s.popTurn).ilen = s.ilen := rfl
@[simp] theorem popTurn_olen : (s.popTurn).olen = s.olen := rfl
@[simp] theorem popTurn_page : (s.popTurn).page = s.page := rfl
@[simp] theorem popTurn_count : (s.popTurn).count = s.count := rfl
@[simp] theorem popTurn_errblk : (s.popTurn).errblk = s.errblk := rfl
@[simp] theorem popTurn_ibuf : (s.popTurn).ibuf = s.ibuf := rfl
@[simp] theorem popTurn_obuf : (s.popTurn).obuf = s.obuf := rfl
@[simp] theorem popTurn_fault : (s.popTurn).fault = s.fault := rfl
@[simp] theorem popTurn_draws : (s.popTurn).draws = s.draws := rfl
@[simp] theorem popTurn_host : (s.popTurn).host = s.host := rfl
@[simp] theorem popTurn_turns : (s.popTurn).turns = s.turns.tail := rfl

@[simp] theorem latchCommand_cmd (w : Word) : (s.latchCommand w).cmd = w := rfl
@[simp] theorem latchCommand_busy (w : Word) : (s.latchCommand w).busy = true := rfl
@[simp] theorem latchCommand_done (w : Word) : (s.latchCommand w).done = false := rfl
@[simp] theorem latchCommand_result (w : Word) : (s.latchCommand w).result = .ok := rfl
@[simp] theorem latchCommand_ilen (w : Word) : (s.latchCommand w).ilen = s.ilen := rfl
@[simp] theorem latchCommand_olen (w : Word) : (s.latchCommand w).olen = s.olen := rfl
@[simp] theorem latchCommand_page (w : Word) : (s.latchCommand w).page = s.page := rfl
@[simp] theorem latchCommand_count (w : Word) : (s.latchCommand w).count = s.count := rfl
@[simp] theorem latchCommand_errblk (w : Word) : (s.latchCommand w).errblk = s.errblk := rfl
@[simp] theorem latchCommand_ibuf (w : Word) : (s.latchCommand w).ibuf = s.ibuf := rfl
@[simp] theorem latchCommand_obuf (w : Word) : (s.latchCommand w).obuf = s.obuf := rfl
@[simp] theorem latchCommand_fault (w : Word) : (s.latchCommand w).fault = none := rfl
@[simp] theorem latchCommand_draws (w : Word) : (s.latchCommand w).draws = s.draws := rfl
@[simp] theorem latchCommand_host (w : Word) : (s.latchCommand w).host = s.host := rfl
@[simp] theorem latchCommand_turns (w : Word) : (s.latchCommand w).turns = .engine :: s.turns := rfl

@[simp] theorem reset_cmd : State.reset.cmd = 0 := rfl
@[simp] theorem reset_busy : State.reset.busy = false := rfl
@[simp] theorem reset_done : State.reset.done = false := rfl
@[simp] theorem reset_result : State.reset.result = .ok := rfl
@[simp] theorem reset_ilen : State.reset.ilen = 0 := rfl
@[simp] theorem reset_page : State.reset.page = 0 := rfl
@[simp] theorem reset_count : State.reset.count = 0 := rfl
@[simp] theorem reset_olen : State.reset.olen = 0 := rfl
@[simp] theorem reset_errblk : State.reset.errblk = 0 := rfl
@[simp] theorem reset_ibuf : State.reset.ibuf = [] := rfl
@[simp] theorem reset_obuf : State.reset.obuf = [] := rfl
@[simp] theorem reset_fault : State.reset.fault = none := rfl
@[simp] theorem reset_host : State.reset.host = .idle := rfl
@[simp] theorem reset_turns : State.reset.turns = [] := rfl

end Sys2Proof.Machine
end

