-- ==== Sys2Proof/Laws/Exec.lean ====
section
/-! SUPPORT. What reading operands, a command, the ENGINE and one step can do, each said once. -/

namespace Sys2Proof.Machine

/-! ## Operands -/

@[simp] theorem length_input (s : State) (n : Nat) : (s.input n).length = n := by simp [State.input]

/-- A byte the HOST has written is read as it is; another is the draw of its position (R28). -/
theorem input_getElem? (s : State) (n i : Nat) (h : i < n) :
    (s.input n)[i]? = some ((Cells.read s.ibuf i).getD (Config.drawByte (s.draws + i))) := by
  simp [State.input, byteOrDraw, h]

/-! ## Commands -/

/-- What a length rule says. -/
theorem scrLengthOK_iff (n : Nat) : scrLengthOK n = true ↔ n % 125 = 0 ∧ n ≤ 2000 := by simp [scrLengthOK]

theorem frameLengthOK_iff (n : Nat) : frameLengthOK n = true ↔ n % 155 = 0 ∧ n ≤ 2480 := by simp [frameLengthOK]

/-- Everything a command can do: it succeeds with an output (at most BUF_CAP bytes), CHKV succeeds with none, a check
fails at one of at most 16 frames, or it fails for a reason of its own. -/
theorem exec_cases (i : Instr) (s t : State) (h : exec i s = .next t) :
    (∃ d out, out.length ≤ 2480 ∧ i ≠ .chkv ∧ t = ((s.drawn d).writeOutput out).finish .ok)
    ∨ (∃ d, i = .chkv ∧ t = (s.drawn d).clearOlen.finish .ok)
    ∨ (∃ d b, b ≤ 15 ∧ (i = .uscr ∨ i = .chkv) ∧ t = ((s.drawn d).setErrblk b).finish .checksumError)
    ∨ (∃ c, c ≠ .ok ∧ c ≠ .checksumError
        ∧ ((c = .lengthError ∧ (i = .scr ∨ i = .uscr ∨ i = .chkv)) ∨ (c = .operandRange ∧ (i = .dtrq ∨ i = .wrpg))
          ∨ (c = .invalidPageSize ∧ i = .wrpg))
        ∧ t = s.finish c) := by
  have hbad : ∀ n b, frameLengthOK n = true → firstBad (parts Config.frame (s.input n)) = some b → b ≤ 15 := by
    intro n b hn hb
    obtain ⟨hb', -⟩ := (firstBad_eq_some _ _).1 hb
    rw [length_parts, length_input] at hb'
    have := ((frameLengthOK_iff n).1 hn).2
    simp only [Config.frame] at hb'
    omega
  cases i with
  | scr =>
    simp only [exec, execScr] at h
    split at h
    · rename_i hn
      injection h with h
      refine .inl ⟨_, _, ?_, by decide, h.symm⟩
      obtain ⟨h1, h2⟩ := (scrLengthOK_iff _).1 hn
      rw [length_scramble _ (s.ilen.toNat / 125) (by rw [length_input]; omega)]
      omega
    · injection h with h
      exact .inr (.inr (.inr ⟨_, by decide, by decide, by simp, h.symm⟩))
  | uscr =>
    simp only [exec, execUscr] at h
    split at h
    · rename_i hn
      simp only [unscramble] at h
      split at h
      · rename_i b hb
        injection h with h
        split at hb
        · rename_i b' hb'
          injection hb with hb
          subst hb
          exact .inr (.inr (.inl ⟨_, _, hbad _ _ hn hb', by simp, h.symm⟩))
        · exact absurd hb (by simp)
      · rename_i out ho
        injection h with h
        split at ho
        · exact absurd ho (by simp)
        · injection ho with ho
          subst ho
          refine .inl ⟨_, _, ?_, by decide, h.symm⟩
          obtain ⟨h1, h2⟩ := (frameLengthOK_iff _).1 hn
          rw [length_unpacked, length_input]
          omega
    · injection h with h
      exact .inr (.inr (.inr ⟨_, by decide, by decide, by simp, h.symm⟩))
  | chkv =>
    simp only [exec, execChkv] at h
    split at h
    · rename_i hn
      split at h
      · rename_i b hb
        injection h with h
        exact .inr (.inr (.inl ⟨_, _, hbad _ _ hn hb, by simp, h.symm⟩))
      · injection h with h
        exact .inr (.inl ⟨_, rfl, h.symm⟩)
    · injection h with h
      exact .inr (.inr (.inr ⟨_, by decide, by decide, by simp, h.symm⟩))
  | idrq =>
    injection h with h
    exact .inl ⟨0, _, by simp, by decide, h.symm⟩
  | dtrq =>
    simp only [exec, execDtrq] at h
    split at h
    · injection h with h
      exact .inr (.inr (.inr ⟨_, by decide, by decide, by simp, h.symm⟩))
    · injection h with h
      refine .inl ⟨0, _, ?_, by decide, h.symm⟩
      rw [length_dataRequest]
      have := Config.rqHdrLen.isLt
      omega
  | wrpg =>
    simp only [exec, execWrpg] at h
    split at h
    · injection h with h
      exact .inr (.inr (.inr ⟨_, by decide, by decide, by simp, h.symm⟩))
    · split at h
      · injection h with h
        exact .inr (.inr (.inr ⟨_, by decide, by decide, by simp, h.symm⟩))
      · injection h with h
        refine .inl ⟨_, _, ?_, by decide, h.symm⟩
        rw [length_writePage _ _ (by simp)]
        omega

/-- Every command completes, from every state. -/
theorem exec_next (i : Instr) (s : State) : ∃ t, exec i s = .next t := by
  cases i <;> simp only [exec, execScr, execUscr, execChkv, execIdrq, execDtrq, execWrpg]
  · split <;> exact ⟨_, rfl⟩
  · split
    · split <;> exact ⟨_, rfl⟩
    · exact ⟨_, rfl⟩
  · split
    · split <;> exact ⟨_, rfl⟩
    · exact ⟨_, rfl⟩
  · exact ⟨_, rfl⟩
  · split <;> exact ⟨_, rfl⟩
  · split
    · exact ⟨_, rfl⟩
    · split <;> exact ⟨_, rfl⟩

/-- OBUF after a command that succeeds with the output `out`. -/
theorem read_succeeded_obuf (s : State) (d : Nat) (out : List Byte) (j : Nat) :
    Cells.read (((s.drawn d).writeOutput out).finish .ok).obuf j
      = if j < out.length then out[j]? else Cells.read s.obuf j := by
  simp only [finish_obuf, if_true, writeOutput_obuf, drawn_obuf, read_putRun]
  split
  · rw [if_pos (by omega)]; simp
  · rw [if_neg (by omega)]

/-- OLEN after a command that succeeds with the output `out`. -/
theorem succeeded_olen (s : State) (d : Nat) (out : List Byte) (h : out.length ≤ 2480) :
    (((s.drawn d).writeOutput out).finish .ok).olen.toNat = out.length := by
  simp only [finish_olen, if_true, writeOutput_olen, BitVec.toNat_ofNat]
  exact Nat.mod_eq_of_lt (by omega)

/-! ## One step -/

/-- What the ENGINE's step does with a command in flight. -/
theorem engineStep_cases (s : State) (hb : s.busy = true) :
    (∃ i, decode s.cmd = .ok i ∧ engineStep s = exec i s)
      ∨ (∃ e, decode s.cmd = .error e ∧ engineStep s = .next (s.finish .illegalCommand)) := by
  cases hd : decode s.cmd with
  | ok i => exact .inl ⟨i, rfl, by simp [engineStep, hb, hd]⟩
  | error e => exact .inr ⟨e, rfl, by simp [engineStep, hb, hd, execIllegal]⟩

/-- Everything one step can do. -/
theorem step_cases (s t : State) (h : step s = .next t) :
    s.fault = none ∧
      ((s.nextTurn = .reset ∧ t = s.popTurn.resetInput)
        ∨ (s.nextTurn = .host ∧ t = hostStep s.popTurn)
        ∨ (s.nextTurn = .engine ∧ engineStep s.popTurn = .next t)) := by
  simp only [step] at h
  split at h
  · exact absurd h (by simp)
  · rename_i hf
    refine ⟨hf, ?_⟩
    split at h
    · rename_i hn; injection h with h; exact .inl ⟨hn, h.symm⟩
    · rename_i hn; injection h with h; exact .inr (.inl ⟨hn, h.symm⟩)
    · rename_i hn; exact .inr (.inr ⟨hn, h⟩)

end Sys2Proof.Machine
end

