-- ==== Sys2Proof/Laws/Flags.lean ====
section
/-! SUPPORT. The STATUS word by its fields. -/

namespace Sys2Proof.Machine

/-- STATUS as a number: BUSY + 2·DONE + 16·RESULT, every reserved bit 0 (R21). -/
theorem statusWord_toNat (busy done : Bool) (r : ResultCode) :
    (statusWord busy done r).toNat = busy.toNat + 2 * done.toNat + 16 * r.code.toNat := by
  cases busy <;> cases done <;> cases r <;> rfl

/-- Bit 0 of STATUS is BUSY (R21): what a WAIT tests. -/
theorem statusWord_and_one (busy done : Bool) (r : ResultCode) :
    statusWord busy done r &&& 1#32 = if busy then 1#32 else 0#32 := by
  cases busy <;> cases done <;> cases r <;> rfl

/-- Result codes have distinct numbers (R121). -/
theorem code_injective (r r' : ResultCode) (h : r.code = r'.code) : r = r' := by
  cases r <;> cases r' <;> first | rfl | (exact absurd h (by decide))

end Sys2Proof.Machine
end

