-- ==== Sys2Proof/Laws/HostStep.lean ====
section
/-! SUPPORT. Laws of the address map, of bus accesses and of the HOST's step. -/

namespace Sys2Proof.Machine

/-! ## The address map -/

/-- What each mapped address names, by its number (R49). -/
theorem target?_eq_some (a : BusAddr) (t : Target) : target? a = some t ↔
    match t with
    | .cmd => a.toNat = 0x0000
    | .status => a.toNat = 0x0004
    | .ilen => a.toNat = 0x0008
    | .olen => a.toNat = 0x000C
    | .page => a.toNat = 0x0010
    | .count => a.toNat = 0x0014
    | .errblk => a.toNat = 0x0018
    | .ibuf i => 0x1000 ≤ a.toNat ∧ a.toNat < 0x36C0 ∧ i = (a.toNat - 0x1000) / 4
    | .obuf i => 0x4000 ≤ a.toNat ∧ a.toNat < 0x66C0 ∧ i = (a.toNat - 0x4000) / 4 := by
  simp only [target?]
  generalize a.toNat = n
  constructor
  · intro h
    repeat' split at h
    all_goals first | (injection h with h; subst h) | (exact absurd h (by simp))
    all_goals first | assumption | (dsimp only; omega)
  · cases t <;> dsimp only <;> intro h
    all_goals repeat' split
    all_goals first | (exfalso; omega) | rfl | (simp only [Option.some.injEq, Target.ibuf.injEq, Target.obuf.injEq]; omega)

/-- The word-aligned addresses that name nothing (R49, R50). -/
theorem target?_eq_none (a : BusAddr) (ha : a.toNat % 4 = 0) : target? a = none ↔
    ¬(a.toNat ≤ 0x18 ∨ (0x1000 ≤ a.toNat ∧ a.toNat ≤ 0x36BF) ∨ (0x4000 ≤ a.toNat ∧ a.toNat ≤ 0x66BF)) := by
  simp only [target?]
  generalize a.toNat = n at ha
  constructor
  · intro h
    repeat' split at h
    all_goals first | (cases h; done) | omega
  · intro h
    repeat' split
    all_goals first | rfl | (exfalso; omega)

/-- A window index is below BUF_CAP (R49). -/
theorem target?_ibuf_lt (a : BusAddr) (i : Nat) (h : target? a = some (.ibuf i)) : i < 2480 := by
  have := (target?_eq_some a _).1 h
  dsimp only at this
  omega

theorem toNat_addr_ibuf (i : Nat) (hi : i < 2480) : (BitVec.ofNat 16 (0x1000 + 4 * i)).toNat = 0x1000 + 4 * i := by
  rw [BitVec.toNat_ofNat]; exact Nat.mod_eq_of_lt (by omega)

theorem toNat_addr_obuf (i : Nat) (hi : i < 2480) : (BitVec.ofNat 16 (0x4000 + 4 * i)).toNat = 0x4000 + 4 * i := by
  rw [BitVec.toNat_ofNat]; exact Nat.mod_eq_of_lt (by omega)

/-! ## Bus accesses -/

theorem accessFault_busError (s : State) (dir : Dir) (a : BusAddr) (size : Nat)
    (h : size ≠ 4 ∨ a.toNat % 4 ≠ 0 ∨ target? a = none) : s.accessFault dir a size = some (.busError a) := by
  simp only [State.accessFault]
  split
  · rfl
  · rename_i hn
    have ht : target? a = none := by
      rcases h with h | h | h
      · exact absurd (Or.inl h) hn
      · exact absurd (Or.inr h) hn
      · exact h
    simp [ht]

theorem accessFault_mapped (s : State) (dir : Dir) (a : BusAddr) (t : Target) (ha : a.toNat % 4 = 0)
    (ht : target? a = some t) :
    s.accessFault dir a 4
      = if s.busy = true ∧ ¬(dir = .read ∧ t = .status) then some (.hostHazard a) else none := by
  simp [State.accessFault, ha, ht]

/-- An access that raises no fault: what that says of it. -/
theorem accessFault_eq_none (s : State) (dir : Dir) (a : BusAddr) (size : Nat)
    (h : s.accessFault dir a size = none) :
    size = 4 ∧ a.toNat % 4 = 0 ∧ ∃ t, target? a = some t ∧ (s.busy = true → dir = .read ∧ t = .status) := by
  simp only [State.accessFault] at h
  split at h
  · exact absurd h (by simp)
  · rename_i hn
    split at h
    · exact absurd h (by simp)
    · rename_i t ht
      refine ⟨by omega, by omega, t, ht, ?_⟩
      split at h
      · exact absurd h (by simp)
      · rename_i hb
        intro hbusy
        by_contra hc
        exact hb ⟨hbusy, hc⟩

/-! ## The HOST's step -/

/-- What the HOST's variables hold once a read's value is kept or discarded (R77). -/
theorem read_keep_vars (h : HostAgent) (d : Option HostVar) (v : Word) (y : HostVar) :
    Cells.read (h.keep d v).vars y = if d = some y then some v else Cells.read h.vars y := by
  cases d with
  | none => simp [HostAgent.keep]
  | some x => simp [HostAgent.keep, read_put, eq_comm]

/-- Everything the HOST's step can do: nothing, a refused access, a change of HOST state alone, a write, or a read. -/
theorem hostStep_cases (s : State) :
    hostStep s = s
    ∨ (∃ f h, hostStep s = { s.recordFault f with host := h })
    ∨ (∃ h, hostStep s = { s with host := h })
    ∨ (∃ a t v h, s.busy = false ∧ target? a = some t ∧ hostStep s = { s.writeTarget t v with host := h })
    ∨ (∃ n h, hostStep s = { s.drawn n with host := h }) := by
  simp only [hostStep]
  split
  · rename_i st pc hst
    cases st with
    | label l => exact .inr (.inr (.inl ⟨_, rfl⟩))
    | write a size v =>
      simp only [hostStmt, hostWrite]
      split
      · exact .inr (.inl ⟨_, _, rfl⟩)
      · rename_i hf
        obtain ⟨-, -, t, ht, hb⟩ := accessFault_eq_none _ _ _ _ hf
        have hbusy : s.busy = false := by
          cases hs : s.busy with
          | false => rfl
          | true => exact absurd (hb hs).1 (by decide)
        have hw : s.busWrite a.addr (s.host.value v) = s.writeTarget t (s.host.value v) := by
          simp only [State.busWrite, ht]
        rw [hw]
        exact .inr (.inr (.inr (.inl ⟨_, t, _, _, hbusy, ht, rfl⟩)))
    | read a size dst =>
      simp only [hostStmt, hostRead]
      split
      · exact .inr (.inl ⟨_, _, rfl⟩)
      · rename_i hf
        obtain ⟨-, -, t, ht, -⟩ := accessFault_eq_none _ _ _ _ hf
        have hw : s.afterRead a.addr = s.drawn t.drawCost := by simp only [State.afterRead, ht]
        rw [hw]
        exact .inr (.inr (.inr (.inr ⟨_, _, rfl⟩)))
    | branch x m l => exact .inr (.inr (.inl ⟨_, rfl⟩))
    | check x v => exact .inr (.inr (.inl ⟨_, rfl⟩))
  · exact .inl rfl

/-- No HOST step changes the turns. -/
theorem hostStep_turns (s : State) : (hostStep s).turns = s.turns := by
  rcases hostStep_cases s with h | ⟨f, h', h⟩ | ⟨x, h⟩ | ⟨a, t, v, x, _, _, h⟩ | ⟨n, x, h⟩ <;> rw [h] <;> simp
  cases t <;> rfl

/-- A HOST with a statement to run runs it. -/
theorem step_host (s : State) (st : Stmt) (pc : Nat) (hf : s.fault = none) (hn : s.nextTurn = .host)
    (hs : s.host.fetch = some (st, pc)) : step s = .next (hostStmt st pc s.popTurn) := by
  simp [step, hf, hn, hostStep, hs]

end Sys2Proof.Machine
end

