-- ==== Sys2Proof/Laws/PerInstr.lean ====
section
/-! SUPPORT. What holds of each instruction as syntax, one lemma per constructor. -/

namespace Sys2Proof.Laws.WordShape

/-- The command word of `i` has RSV = 0, is its OP alone, and is legal (R63, R64, R65). -/
def Statement (i : Instr) : Prop :=
  cmdRsv (encode i) = 0 ∧ (cmdOp (encode i)).toNat = (encode i).toNat ∧ legalCommandWord (encode i) = true

theorem scr : Statement .scr := by unfold Statement; decide
theorem uscr : Statement .uscr := by unfold Statement; decide
theorem chkv : Statement .chkv := by unfold Statement; decide
theorem idrq : Statement .idrq := by unfold Statement; decide
theorem dtrq : Statement .dtrq := by unfold Statement; decide
theorem wrpg : Statement .wrpg := by unfold Statement; decide

end Sys2Proof.Laws.WordShape
end

