-- ==== Sys2Proof/Tests/Slice0.lean ====
section
/-! SUPPORT. The model's own tests. Words and bytes are those of the spec's encodings (30_encoding.md R64) and of its
vectors V1..V25 (95_test_vectors.md), or counted by hand from the rules named; then one witness per statement with
hypotheses, that they can be met. -/

namespace Sys2Proof.Tests

open Sys2Proof.Machine Sys2Proof.Claims

/-! ## Helpers -/

/-- A block whose HOST has loaded `bs` (R78 LOAD). -/
def loaded (bs : List Byte) : State :=
  { State.reset with ibuf := Cells.run 0 bs, ilen := BitVec.ofNat 16 bs.length }

/-- What holds of the next state, if there is one. -/
def next? (o : Host.Outcome State Fault Refusal) (p : State → Bool) : Bool :=
  match o with
  | .next t => p t
  | .fault _ => false
  | .refused _ => false

/-- The fault a step stops with. -/
def fault? (o : Host.Outcome State Fault Refusal) : Option Fault :=
  match o with
  | .next _ => none
  | .fault f => some f
  | .refused _ => none

/-- STATUS, OLEN, ERRBLK after a command. -/
def ends (o : Host.Outcome State Fault Refusal) (status olen errblk : Nat) : Bool :=
  next? o fun t => t.status.toNat == status && t.olen.toNat == olen && t.errblk.toNat == errblk

/-- `OBUF[a .. a + len bs)` holds `bs`. -/
def holds (t : State) (a : Nat) (bs : List Byte) : Bool :=
  (List.range bs.length).map (fun i => Cells.read t.obuf (a + i)) == bs.map some

/-- A HOST with one statement to run, and its turn. -/
def hostAt (st : Stmt) : State := { State.reset with host := { HostAgent.idle with script := [st] }, turns := [.host] }

/-- The same while a command is in flight. -/
def busyAt (st : Stmt) : State := { hostAt st with cmd := 0x10#32, busy := true }

/-- The same after an IDRQ has finished, as V19 leaves it: OLEN = 5. -/
def afterIdrq (st : Stmt) : State :=
  { hostAt st with cmd := 0x10#32, done := true, olen := 5, obuf := Cells.run 0 [1#8, 2#8, 3#8, 4#8, 5#8] }

/-- One block of value `v`. -/
def blockOf (v : Byte) : List Byte := List.replicate 125 v

/-- V10's pattern, `P[i] = (37 i + 11) mod 256`. -/
def pattern (n : Nat) : List Byte := (List.range n).map fun i => BitVec.ofNat 8 (37 * i + 11)

/-- A frame that passes the check: payload byte 20 is `x` and byte 153 completes the sum (R100). -/
def goodFrame (x : Byte) : List Byte :=
  List.replicate 20 0 ++ [x] ++ List.replicate 132 0 ++ [BitVec.ofNat 8 ((128 - x.toNat % 128) % 128), 0xF7#8]

/-! ## Configuration (R7) -/

theorem test_config_sizes :
    Config.nFull = Config.blkIn / Config.group ∧ Config.lastG = Config.blkIn % Config.group
      ∧ Config.payload = Config.nFull * 8 + 1 + Config.lastG
      ∧ Config.frame = Config.hdrPh + Config.payload + Config.trailer
      ∧ Config.bufCap = Config.maxBlocks * Config.frame ∧ Config.patchBytes = 2 * Config.blkIn
      ∧ Config.globalBytes = Config.maxBlocks * Config.blkIn := by decide

/-! ## Decoding: the words of R64 bit by bit, RSV first, then OP -/

theorem test_decode_scr : decode (0b000000000000000000000000#24 ++ 0b00000001#8) = .ok .scr := by decide
theorem test_decode_uscr : decode (0b000000000000000000000000#24 ++ 0b00000010#8) = .ok .uscr := by decide
theorem test_decode_chkv : decode (0b000000000000000000000000#24 ++ 0b00000011#8) = .ok .chkv := by decide
theorem test_decode_idrq : decode (0b000000000000000000000000#24 ++ 0b00010000#8) = .ok .idrq := by decide
theorem test_decode_dtrq : decode (0b000000000000000000000000#24 ++ 0b00010001#8) = .ok .dtrq := by decide
theorem test_decode_wrpg : decode (0b000000000000000000000000#24 ++ 0b00010010#8) = .ok .wrpg := by decide

theorem test_decodeTableWord_rows :
    [0x01, 0x02, 0x03, 0x10, 0x11, 0x12].map (decodeTableWord 32)
      = [some .scr, some .uscr, some .chkv, some .idrq, some .dtrq, some .wrpg] := by decide

/-- V22's words, and the reason each is illegal. -/
theorem test_illegal_words :
    [0x00000000#32, 0x00000004#32, 0x0000000F#32, 0x00000013#32, 0x000000FF#32].map decode
        = [0x00#8, 0x04#8, 0x0F#8, 0x13#8, 0xFF#8].map (fun op => .error (.reservedOpcode op))
      ∧ [0x00000101#32, 0x80000002#32, 0xFFFFFFFF#32].map decode
        = [0x000001#24, 0x800000#24, 0xFFFFFF#24].map (fun rsv => .error (.reservedBits rsv)) := by decide

/-- V22 with V8's length: the illegal word wins, whatever ILEN holds, and CMD keeps the word. -/
theorem test_illegal_step :
    ends (step ({ loaded (List.replicate 124 0) with page := 0xFFFF }.withFetchWord 32 0x101)) 0x52 0 0 = true := by
  decide

/-! ## Well-formedness -/

theorem test_illformed_words :
    legalCommandWord 0x00000101#32 = false ∧ legalCommandWord 0x00000004#32 = false
      ∧ legalCommandWord 0x00000012#32 = true := by decide

theorem test_illformed_window_names :
    Stmt.wellFormed [] (.read (.ibuf 2480) 4 none) = false ∧ Stmt.wellFormed [] (.write (.obuf 2480) 4 (.lit 0)) = false
      ∧ Stmt.wellFormed [] (.read (.ibuf 2479) 4 none) = true := by decide

theorem test_illformed_sizes :
    Stmt.wellFormed [] (.write .ilen 1 (.lit 0)) = false ∧ Stmt.wellFormed [] (.read .status 2 none) = false := by decide

theorem test_illformed_goto :
    Script.wellFormed [.branch 0 1#32 7] = false ∧ Script.wellFormed [.label 7, .branch 0 1#32 7] = true := by decide

theorem test_illformed_labels : Script.wellFormed [.label 7, .label 7] = false := by decide

/-! ## Scripts (R78) -/

theorem test_run_expands :
    Script.run .wrpg 9 = [.write .cmd 4 (.lit 0x12#32), .label 9, .read .status 4 (some 0), .branch 0 1#32 9] := by decide

theorem test_load_copy_expect_expand :
    Script.load [0xAA#8, 0xBB#8]
        = [.write (.ibuf 0) 4 (.lit 0xAA#32), .write (.ibuf 1) 4 (.lit 0xBB#32), .write .ilen 4 (.lit 2#32)]
      ∧ Script.copy 5 0 1 = [.read (.obuf 5) 4 (some 1), .write (.ibuf 0) 4 (.var 1)]
      ∧ Script.expect .olen 5#32 = [.read .olen 4 (some 2), .check 2 5#32] := by decide

/-! ## SCR (V3, V4, V8, V10) -/

/-- V10, from offset 8 and from offset 292: P[0..7) gives 07 0B 30 55 7A 1F 44 69. -/
theorem test_scramble_pattern :
    seg (scramble (pattern 250)) 8 19 = [0x00, 0x00, 0x07, 0x0B, 0x30, 0x55, 0x7A, 0x1F, 0x44, 0x69, 0x07]
      ∧ seg (scramble (pattern 250)) 292 310 = [0x27, 0x1C, 0x4C, 0x71, 0x16, 0x3B, 0x60, 0x05, 0x2A, 0x1C, 0x4F, 0x74,
          0x19, 0x3E, 0x63, 0x08, 0x00, 0x00] := by decide +kernel

/-- V4: position 0 of group 17; V3: position 1 of group 0; V8: lengths 126 and 0. -/
theorem test_scr :
    next? (exec .scr (loaded ([0, 0x80] ++ List.replicate 117 0 ++ [0xFF, 0, 0, 0, 0, 0]))) (fun t =>
        t.status.toNat == 0x02 && t.olen.toNat == 155 && holds t 10 [0x20, 0, 0]
          && holds t 146 [0x40, 0x7F, 0, 0, 0, 0, 0, 0, 0]) = true
      ∧ ends (exec .scr (loaded (List.replicate 126 0))) 0x32 0 0 = true
      ∧ ends (exec .scr (loaded [])) 0x02 0 0 = true := by decide +kernel

/-! ## USCR (V1, V2, V11) -/

/-- V11's change: bit 7 of a payload byte passes the check and lands in the output: offset 20 is block byte 8. -/
theorem test_uscr_keeps_bit7 :
    next? (exec .uscr (loaded ((goodFrame 0x33).set 20 0xB3))) (fun t => t.status.toNat == 0x02 && t.olen.toNat == 125
      && holds t 7 [0x00, 0xB3, 0x00]) = true := by decide +kernel

/-- V2: V1's raw frame fails; and the block of 80s comes back once 0x13 completes the sum (V1 step c). -/
theorem test_unscramble_block_of_80 :
    unscramble (packBlock (blockOf 0x80)) = .bad 0
      ∧ unscramble ((packBlock (blockOf 0x80)).set 153 0x13) = .ok (blockOf 0x80) := by decide +kernel

/-! ## CHKV (V9, V13, V14) -/

/-- V13: a payload byte complemented; V14's shape: the second frame fails, by bit 2 of its offset 30; V15: both good;
V9: length 154. -/
theorem test_chkv :
    ends (exec .chkv (loaded ((goodFrame 0x33).set 20 0xCC))) 0x12 0 0 = true
      ∧ firstBad (parts 155 (goodFrame 0x33 ++ (goodFrame 0x11).set 30 0x04)) = some 1
      ∧ firstBad (parts 155 (goodFrame 0x33 ++ goodFrame 0x11)) = none
      ∧ ends (exec .chkv (loaded (List.replicate 154 0))) 0x32 0 0 = true := by decide +kernel

/-- V13: bytes 0 and 154 are not in the sum; byte 9 is; two changes can cancel. -/
theorem test_frame_check :
    frameOK (((goodFrame 0x33).set 0 0xF0).set 154 0x00) = true ∧ frameOK ((goodFrame 0x33).set 9 0x01) = false
      ∧ frameOK (((goodFrame 0x33).set 20 0x34).set 21 0x7F) = true := by decide +kernel

/-! ## IDRQ (V19) -/

theorem test_idrq : ends (exec .idrq { State.reset with ilen := 7, page := 0xFFFF }) 0x02 5 0 = true := by decide

/-! ## DTRQ (V20, V21) -/

/-- V20's row 0x1234, 3: 24 34 00 02, checksum 26; and its row 0x0001, 2: checksum 7E. -/
theorem test_dtrq_fields :
    requestFields 0x1234 3 = [0x24#8, 0x34#8, 0x00#8, 0x02#8] ∧ csum7 [0x24#8, 0x34#8, 0x00#8, 0x02#8] = 0x26#8
      ∧ csum7 (requestFields 0x0001 2) = 0x7E#8 ∧ csum7 (requestFields 0x3FFF 16384) = 0x04#8 := by decide

/-- V21. -/
theorem test_dtrq_ranges :
    ends (exec .dtrq State.reset) 0x42 0 0 = true
      ∧ ends (exec .dtrq { State.reset with page := 0x4000, count := 1 }) 0x42 0 0 = true
      ∧ ends (exec .dtrq { State.reset with count := 0x4001 }) 0x42 0 0 = true
      ∧ next? (exec .dtrq { State.reset with page := 0x3FFF, count := 0x4000 }) (fun t => t.status.toNat == 0x02)
        = true := by decide

/-! ## WRPG (V17, V18) -/

/-- V17's row 0x3FFF: page bytes 7F 7F, checksum 15, terminator F7. -/
theorem test_wrpg_frame :
    next? (exec .wrpg { loaded (packBlock (blockOf 0x80)) with page := 0x3FFF }) (fun t => t.status.toNat == 0x02
      && t.olen.toNat == 155 && holds t 8 [0x7F, 0x7F, 0x7F, 0x00] && holds t 153 [0x15, 0xF7]) = true := by
  decide +kernel

/-- V18. -/
theorem test_wrpg_errors :
    ends (exec .wrpg { loaded (List.replicate 154 0) with page := 0x4000 }) 0x22 0 0 = true
      ∧ ends (exec .wrpg { loaded (List.replicate 155 0) with page := 0x4000 }) 0x42 0 0 = true
      ∧ ends (exec .wrpg State.reset) 0x22 0 0 = true := by decide +kernel

/-! ## One step of the machine -/

/-- The step the host asks about: each table word, run as the first command after reset (V25). -/
theorem test_first_commands :
    ends (step (State.reset.withFetchWord 32 0x01)) 0x02 0 0 = true
      ∧ ends (step (State.reset.withFetchWord 32 0x02)) 0x02 0 0 = true
      ∧ ends (step (State.reset.withFetchWord 32 0x03)) 0x02 0 0 = true
      ∧ ends (step (State.reset.withFetchWord 32 0x10)) 0x02 5 0 = true
      ∧ ends (step (State.reset.withFetchWord 32 0x11)) 0x42 0 0 = true
      ∧ ends (step (State.reset.withFetchWord 32 0x12)) 0x22 0 0 = true := by decide

/-- V23: PAGE keeps the low half, IBUF the low byte; a CMD write starts a command. -/
theorem test_host_writes :
    next? (step (hostAt (Script.w .page 0xABCD1234#32))) (fun t => t.page == 0x1234#16) = true
      ∧ next? (step (hostAt (Script.w (.ibuf 3) 0x000001C5#32))) (fun t => Cells.read t.ibuf 3 == some 0xC5#8) = true
      ∧ next? (step (hostAt (Script.w .cmd 0x10#32))) (fun t => t.status == 1#32 && t.cmd == 0x10#32) = true := by
  decide

/-- V23: writes of STATUS and of the OBUF window change nothing, and are no fault. -/
theorem test_host_ignored_writes :
    next? (step (afterIdrq (Script.w .status 0xFFFFFFFF#32))) (fun t => t.status == 2#32 && t.fault.isNone) = true
      ∧ next? (step (afterIdrq (Script.w (.obuf 0) 0x55#32))) (fun t => holds t 0 [0x01, 0x02] && t.fault.isNone)
        = true := by decide

/-- V23, V24: reads. -/
theorem test_host_reads :
    next? (step (afterIdrq (Script.r .olen 3))) (fun t => Cells.read t.host.vars 3 == some 5#32) = true
      ∧ next? (step (afterIdrq (Script.r (.obuf 4) 3))) (fun t => Cells.read t.host.vars 3 == some 5#32) = true
      ∧ next? (step (busyAt (Script.r .status 3))) (fun t => Cells.read t.host.vars 3 == some 1#32) = true := by decide

/-- The fault recorded by a step. -/
def recorded (s : State) : Option Fault :=
  match step s with
  | .next t => t.fault
  | .fault _ => none
  | .refused _ => none

/-- V24. -/
theorem test_faults :
    recorded (hostAt (.read (.number 0x0002#16) 4 none)) = some (.busError 0x0002#16)
      ∧ recorded (hostAt (.write (.number 0x1001#16) 4 (.lit 0))) = some (.busError 0x1001#16)
      ∧ recorded (hostAt (.read (.number 0x001C#16) 4 none)) = some (.busError 0x001C#16)
      ∧ recorded (hostAt (.read (.number 0x36C0#16) 4 none)) = some (.busError 0x36C0#16)
      ∧ recorded (hostAt (.read (.number 0x66C0#16) 4 none)) = some (.busError 0x66C0#16)
      ∧ recorded (hostAt (.read (.number 0x1000#16) 1 none)) = some (.busError 0x1000#16)
      ∧ recorded (busyAt (.read .olen 4 none)) = some (.hostHazard 0x000C#16)
      ∧ recorded (busyAt (.read (.number 0x0005#16) 4 none)) = some (.busError 0x0005#16) := by decide

/-- P4, step 6: the refused read is one of the script's transactions; R77: a read whose value is discarded is too. -/
theorem test_transactions :
    next? (step (hostAt (.read (.number 0x0002#16) 4 none)))
        (fun t => t.host.trace == [.refusedRead 0x0002#16 (.busError 0x0002#16)]) = true
      ∧ next? (step (afterIdrq (.read .olen 4 none)))
        (fun t => t.host.trace == [.read 0x000C#16 0x00000005#32] && t.host.vars == []) = true := by decide

/-- R34: with a fault on record the machine is stopped. -/
theorem test_fault_stops :
    fault? (step { hostAt (Script.r .status 0) with fault := some (.busError 2#16) }) = some (.busError 2#16) := by decide

/-- V24's interleaving note: both runs are admitted. -/
theorem test_both_interleavings :
    recorded { busyAt (.read (.ibuf 0) 4 none) with turns := [.host] } = some (.hostHazard 0x1000#16)
      ∧ next? (step { busyAt (.read (.ibuf 0) 4 none) with turns := [.engine, .host] })
        (fun t => !t.busy && (recorded t).isNone) = true := by decide

/-- V25: the reset input while a command is in flight. -/
theorem test_reset_input :
    next? (step { busyAt (Script.r .status 0) with ilen := 9, ibuf := [(0, 1#8)], turns := [.reset] })
      (fun t => t.cmd == 0 && t.status == 0 && t.ilen == 0 && t.ibuf == [] && t.obuf == []) = true := by decide

/-- R77: a branch is taken when a masked bit is set, and a failed CHECK stops the HOST. -/
theorem test_branch_and_check :
    next? (step { hostAt (.branch 0 1#32 7) with host := ⟨[.label 7, .branch 0 1#32 7], 1, [(0, 3#32)], false, []⟩ })
        (fun t => t.host.pc == 0) = true
      ∧ next? (step { hostAt (.check 0 2#32) with host := ⟨[.check 0 2#32], 0, [(0, 3#32)], false, []⟩ })
        (fun t => t.host.failed && t.endsBadly) = true := by decide

/-- Writing and then writing again keeps one entry, in order (the canonical form). -/
theorem test_store_canonical :
    Cells.put (Cells.put [(1, 5#8), (4, 6#8)] 2 7#8) 2 8#8 = [(1, 5#8), (2, 8#8), (4, 6#8)] := by decide

/-! ## Witnesses: the hypotheses of the statements can be met, clause by clause, at the boundaries -/

theorem written_loaded (bs : List Byte) : Written (loaded bs) bs.length (byteAt bs) := by
  intro i hi
  simp [loaded, read_run, hi, byteAt]

/-- A block of zeros with a zero frame check: V5's frame, any number of times. -/
def zeros (n : Nat) : List Byte := List.replicate n 0

theorem passes_zeros (n b : Nat) : FramePasses (byteAt (zeros n)) b := by
  have h : ∀ i, byteAt (zeros n) i = 0 := by intro i; simp [byteAt, zeros]
  simp [FramePasses, frameSum, h]

theorem test_witness_IllegalWordsAreRejectedByName :
    (0x00000100#32).toNat / 256 ≠ 0 ∧ (0xFFFFFFFF#32).toNat / 256 ≠ 0
      ∧ (∀ n ∈ [0x00, 0x04, 0x0F, 0x13, 0xFF], (BitVec.ofNat 32 n).toNat / 256 = 0
          ∧ ((BitVec.ofNat 32 n).toNat = 0 ∨ (4 ≤ (BitVec.ofNat 32 n).toNat ∧ (BitVec.ofNat 32 n).toNat ≤ 0x0F)
            ∨ 0x13 ≤ (BitVec.ofNat 32 n).toNat))
      ∧ (∀ n ∈ [0x01, 0x03, 0x10, 0x12], (BitVec.ofNat 32 n).toNat / 256 = 0
          ∧ ¬((BitVec.ofNat 32 n).toNat = 0 ∨ (4 ≤ (BitVec.ofNat 32 n).toNat ∧ (BitVec.ofNat 32 n).toNat ≤ 0x0F)
            ∨ 0x13 ≤ (BitVec.ofNat 32 n).toNat)) := by decide

theorem test_witness_DecodeOfEncodeIsTheInstruction :
    ∀ i ∈ [Instr.scr, .uscr, .chkv, .idrq, .dtrq, .wrpg], i.wellFormed = true := by decide

/-- A command in flight and the ENGINE's turn; a fault on record; the ENGINE's turn with no command. -/
theorem test_witness_StepRunsTheDecodedCommand :
    ((State.reset.withFetchWord 32 1).fault = none ∧ (State.reset.withFetchWord 32 1).nextTurn = .engine
        ∧ (State.reset.withFetchWord 32 1).busy = true ∧ decode (State.reset.withFetchWord 32 1).cmd = .ok .scr)
      ∧ (State.reset.recordFault (.busError 2)).fault = some (.busError 2)
      ∧ { State.reset with turns := [.engine] }.fault = none ∧ { State.reset with turns := [.engine] }.nextTurn = .engine
      ∧ { State.reset with turns := [.engine] }.busy = false := by decide

theorem test_witness_IllegalCommandFinishes :
    (State.reset.withFetchWord 32 0x101).fault = none ∧ (State.reset.withFetchWord 32 0x101).nextTurn = .engine
      ∧ (State.reset.withFetchWord 32 0x101).busy = true
      ∧ ∀ i ∈ [Instr.scr, .uscr, .chkv, .idrq, .dtrq, .wrpg], (State.reset.withFetchWord 32 0x101).cmd ≠ encode i := by
  decide

theorem test_witness_EveryEngineStepFinishes :
    (busyAt (Script.r .olen 0)).fault = none
      ∧ { busyAt (Script.r .olen 0) with turns := [] }.nextTurn = .engine ∧ (busyAt (Script.r .olen 0)).busy = true := by
  decide

theorem test_witness_ResultCodesPerCommand :
    (∃ t, engineStep (State.reset.withFetchWord 32 0x101) = .next t)
      ∧ ∀ i : Instr, ∃ t, exec i State.reset = .next t :=
  ⟨⟨_, rfl⟩, fun i => exec_next i State.reset⟩

/-- A success, a failure, and a CHECKSUM_ERROR. -/
theorem test_witness_FrameOfEveryCommand :
    ends (exec .idrq State.reset) 0x02 5 0 = true ∧ ends (exec .dtrq State.reset) 0x42 0 0 = true
      ∧ ends (exec .uscr (loaded ((zeros 155).set 153 1))) 0x12 0 0 = true := by decide +kernel

theorem test_witness_CommandInFlightEnds :
    (busyAt (Script.r .status 0)).fault = none ∧ (busyAt (Script.r .status 0)).busy = true := by decide

/-- A HOST at a WAIT behind a CMD write, with a command in flight. -/
def waiting : State :=
  { State.reset with
    cmd := 0x10, busy := true, turns := [.host, .host, .host, .engine]
    host := { HostAgent.idle with script := Script.run .idrq 7 ++ Script.expect .olen 5, pc := 1 } }

theorem test_witness_WaitLoopEnds :
    waiting.fault = none ∧ waiting.host.failed = false ∧ (∀ u ∈ waiting.turns, u ≠ .reset)
      ∧ waiting.host.script.drop waiting.host.pc = Script.wait 7 ++ Script.expect .olen 5
      ∧ Script.find? waiting.host.script 7 = some waiting.host.pc := by decide

theorem test_witness_CommandStartLatchesTheWord :
    HostRuns (hostAt (.write .cmd 4 (.lit 0x12))) (.write .cmd 4 (.lit 0x12)) 1 ∧ HostAddr.cmd.addr = 0x0000#16
      ∧ (hostAt (.write .cmd 4 (.lit 0x12))).busy = false
      ∧ HostRuns (busyAt (.write .cmd 4 (.lit 0x12))) (.write .cmd 4 (.lit 0x12)) 1
      ∧ (busyAt (.write .cmd 4 (.lit 0x12))).busy = true := by unfold HostRuns; decide

/-- The three operand registers, by name and, for the third, by number. -/
theorem test_witness_OperandRegisterWritesStoreLowHalf :
    (∀ a ∈ [HostAddr.ilen, .page, .number 0x0014#16], HostRuns (hostAt (.write a 4 (.lit 0xABCD1234)))
        (.write a 4 (.lit 0xABCD1234)) 1 ∧ (hostAt (.write a 4 (.lit 0xABCD1234))).busy = false)
      ∧ HostAddr.ilen.addr = 0x0008#16 ∧ HostAddr.page.addr = 0x0010#16 := by unfold HostRuns; decide

theorem test_witness_ReadOnlyWritesAreIgnored :
    (∀ a ∈ [HostAddr.status, .olen, .errblk], HostRuns (afterIdrq (.write a 4 (.lit 0xFFFFFFFF)))
        (.write a 4 (.lit 0xFFFFFFFF)) 1 ∧ (afterIdrq (.write a 4 (.lit 0xFFFFFFFF))).busy = false
        ∧ (a.addr = 0x0004#16 ∨ a.addr = 0x000C#16 ∨ a.addr = 0x0018#16)) := by unfold HostRuns; decide

/-- First and last word of each region of the map, the value kept and discarded. -/
theorem test_witness_ReadsHaveNoSideEffect :
    ∀ a ∈ [HostAddr.cmd, .errblk, .ibuf 0, .ibuf 2479, .obuf 0, .obuf 2479],
      (∀ d ∈ [some 3, none], HostRuns (afterIdrq (.read a 4 d)) (.read a 4 d) 1
        ∧ (afterIdrq (.read a 4 d)).busy = false) ∧ a.addr.toNat % 4 = 0 ∧ Mapped a.addr := by
  unfold HostRuns Mapped; decide

/-- First and last byte of the window; a byte that is written and one that is not. -/
theorem test_witness_IbufWindowIsOneBytePerWord :
    (∀ i ∈ [0, 2479], i < 2480
        ∧ HostRuns (hostAt (.write (.ibuf i) 4 (.lit 0x1C5))) (.write (.ibuf i) 4 (.lit 0x1C5)) 1
        ∧ (hostAt (.write (.ibuf i) 4 (.lit 0x1C5))).busy = false
        ∧ (HostAddr.ibuf i).addr.toNat = 0x1000 + 4 * i)
      ∧ Cells.read (loaded [0xC5#8]).ibuf 0 = some 0xC5#8 ∧ Cells.read (loaded [0xC5#8]).ibuf 2479 = none := by
  unfold HostRuns; decide

/-- The last byte below OLEN = 5, the first at OLEN, and the last of the window. -/
theorem test_witness_ObufReadsAreGatedByOlen :
    (4 < (afterIdrq (Script.r .olen 0)).olen.toNat ∧ Cells.read (afterIdrq (Script.r .olen 0)).obuf 4 = some 5#8)
      ∧ (afterIdrq (Script.r .olen 0)).olen.toNat ≤ 5
      ∧ HostRuns (afterIdrq (.write (.obuf 2479) 4 (.lit 1))) (.write (.obuf 2479) 4 (.lit 1)) 1
      ∧ (afterIdrq (.write (.obuf 2479) 4 (.lit 1))).busy = false
      ∧ (HostAddr.obuf 2479).addr.toNat = 0x4000 + 4 * 2479 := by unfold HostRuns; decide

/-- Writes and reads: misaligned by 1, 2 and 3, of size 1 and 8, and the first and last unmapped words of each hole. -/
theorem test_witness_BusErrorsAreRecorded :
    (∀ a ∈ [0x0005, 0x0002, 0x1003, 0x001C, 0x0FFC, 0x36C0, 0x3FFC, 0x66C0, 0xFFFC].map
        fun n => HostAddr.number (BitVec.ofNat 16 n),
      HostRuns (busyAt (.write a 4 (.lit 0))) (.write a 4 (.lit 0)) 1
        ∧ HostRuns (hostAt (.read a 4 none)) (.read a 4 none) 1 ∧ (a.addr.toNat % 4 ≠ 0 ∨ ¬Mapped a.addr))
      ∧ (∀ n ∈ [1, 8], HostRuns (hostAt (.read (.ibuf 0) n none)) (.read (.ibuf 0) n none) 1 ∧ n ≠ 4) := by
  unfold HostRuns Mapped; decide

theorem test_witness_HostHazardsAreRecorded :
    (∀ a ∈ [HostAddr.cmd, .status, .errblk, .ibuf 0, .obuf 2479], HostRuns (busyAt (.write a 4 (.lit 0)))
        (.write a 4 (.lit 0)) 1 ∧ a.addr.toNat % 4 = 0 ∧ Mapped a.addr ∧ (busyAt (.write a 4 (.lit 0))).busy = true)
      ∧ (∀ a ∈ [HostAddr.cmd, .ilen, .ibuf 2479], HostRuns (busyAt (.read a 4 none)) (.read a 4 none) 1
        ∧ a.addr ≠ 0x0004#16 ∧ a.addr.toNat % 4 = 0 ∧ Mapped a.addr)
      ∧ HostRuns (busyAt (.read .status 4 none)) (.read .status 4 none) 1 ∧ HostAddr.status.addr = 0x0004#16 := by
  unfold HostRuns Mapped; decide

/-- The invariant holds in a state with a command in flight. -/
theorem inv_busyAt (st : Stmt) : (busyAt st).Inv := by
  constructor <;> simp [busyAt, hostAt, Memory.wf, Cells.rising]

theorem test_witness_StatusReadAllowedWhileBusy :
    HostRuns (busyAt (Script.r .status 3)) (.read .status 4 (some 3)) 1
      ∧ HostRuns (busyAt (.read .status 4 none)) (.read .status 4 none) 1 ∧ HostAddr.status.addr = 0x0004#16
      ∧ (busyAt (Script.r .status 3)).Inv ∧ (busyAt (Script.r .status 3)).busy = true :=
  ⟨by unfold HostRuns; decide, by unfold HostRuns; decide, rfl, inv_busyAt _, rfl⟩

/-- A STATUS read, and an access that records a fault. -/
theorem test_witness_HostCannotDisturbACommand :
    (busyAt (Script.r .status 3)).busy = true ∧ (busyAt (Script.r .status 3)).nextTurn = .host
      ∧ (∃ t, step (busyAt (Script.r .status 3)) = .next t) ∧ ∃ t, step (busyAt (Script.r .olen 3)) = .next t :=
  ⟨rfl, rfl, ⟨_, rfl⟩, ⟨_, rfl⟩⟩

/-- A write of ILEN, and a command start. -/
theorem test_witness_HostNeverWritesResults :
    (hostAt (Script.w .ilen 5)).nextTurn = .host ∧ (∃ t, step (hostAt (Script.w .ilen 5)) = .next t)
      ∧ next? (step (hostAt (Script.w .cmd 1))) (fun t => t.busy) = true := ⟨rfl, ⟨_, rfl⟩, by decide⟩

/-- A HOST at the second line of a script, with 3 in `$0`. -/
def hostWith (st : Stmt) : State :=
  { State.reset with turns := [.host], host := ⟨[.label 7, st], 1, [(0, 3#32)], false, []⟩ }

/-- A branch taken and one not taken, a CHECK that holds and one that fails. -/
theorem test_witness_BranchAndCheckFollowTheScript :
    HostRuns (hostWith (.branch 0 1 7)) (.branch 0 1 7) 2
      ∧ Script.find? (hostWith (.branch 0 1 7)).host.script 7 = some 0
      ∧ (hostWith (.branch 0 1 7)).host.var 0 &&& 1#32 ≠ 0 ∧ (hostWith (.branch 0 4 7)).host.var 0 &&& 4#32 = 0
      ∧ HostRuns (hostWith (.check 0 3)) (.check 0 3) 2 ∧ (hostWith (.check 0 3)).host.var 0 = 3#32
      ∧ HostRuns (hostWith (.check 0 2)) (.check 0 2) 2 ∧ (hostWith (.check 0 2)).host.var 0 ≠ 2#32 := by
  unfold HostRuns; decide

theorem test_witness_ResetClearsTheBlock :
    { busyAt (Script.r .status 0) with turns := [.reset] }.fault = none
      ∧ { busyAt (Script.r .status 0) with turns := [.reset] }.nextTurn = .reset
      ∧ ({ State.reset with turns := [.reset] }.recordFault (.busError 2)).fault = some (.busError 2)
      ∧ ({ State.reset with turns := [.reset] }.recordFault (.busError 2)).nextTurn = .reset := by decide

/-- Lengths on both sides: 0, 125, 2000 and 124, 2125, 0xFFFF. -/
theorem test_witness_ScrLengthRule :
    (∀ n ∈ [0, 125, 2000], { State.reset with ilen := BitVec.ofNat 16 n }.ilen.toNat % 125 = 0
        ∧ { State.reset with ilen := BitVec.ofNat 16 n }.ilen.toNat ≤ 2000)
      ∧ (∀ n ∈ [124, 2125, 0xFFFF], ¬({ State.reset with ilen := BitVec.ofNat 16 n }.ilen.toNat % 125 = 0
        ∧ { State.reset with ilen := BitVec.ofNat 16 n }.ilen.toNat ≤ 2000)) := by decide

/-- Two written blocks, whatever the bytes. -/
theorem test_witness_ScrPacksBlocksIntoFrames :
    (loaded (pattern 250)).ilen.toNat % 125 = 0 ∧ (loaded (pattern 250)).ilen.toNat ≤ 2000
      ∧ Written (loaded (pattern 250)) (loaded (pattern 250)).ilen.toNat (byteAt (pattern 250)) := by
  have hl : (pattern 250).length = 250 := by rw [pattern, List.length_map, List.length_range]
  have h : (loaded (pattern 250)).ilen.toNat = 250 := by rw [loaded, hl]; rfl
  have hw := written_loaded (pattern 250)
  rw [hl] at hw
  rw [h]
  exact ⟨by decide, by decide, hw⟩

/-- Over a block nobody has written. -/
theorem test_witness_ScrOutputIsSevenBit :
    next? (exec .scr { State.reset with ilen := 125 }) (fun t => t.result == .ok && t.olen == 155) = true := by
  decide +kernel

theorem test_witness_UnpackByteBits : ∀ k ∈ [0, 6], k < 7 := by decide

theorem test_witness_FrameLengthRule :
    (∀ n ∈ [154, 2635, 0xFFFF], ¬({ State.reset with ilen := BitVec.ofNat 16 n }.ilen.toNat % 155 = 0
        ∧ { State.reset with ilen := BitVec.ofNat 16 n }.ilen.toNat ≤ 2480))
      ∧ (∀ n ∈ [0, 155, 2480], { State.reset with ilen := BitVec.ofNat 16 n }.ilen.toNat % 155 = 0
        ∧ { State.reset with ilen := BitVec.ofNat 16 n }.ilen.toNat ≤ 2480)
      ∧ State.reset.ilen.toNat = 0 := by decide

/-- Sixteen frames of zeros. -/
theorem test_witness_UscrUnpacksGoodFrames :
    (loaded (zeros 2480)).ilen.toNat % 155 = 0 ∧ (loaded (zeros 2480)).ilen.toNat ≤ 2480
      ∧ Written (loaded (zeros 2480)) (loaded (zeros 2480)).ilen.toNat (byteAt (zeros 2480))
      ∧ ∀ b, b < (loaded (zeros 2480)).ilen.toNat / 155 → FramePasses (byteAt (zeros 2480)) b := by
  have hw := written_loaded (zeros 2480)
  rw [zeros, List.length_replicate, ← zeros] at hw
  have h : (loaded (zeros 2480)).ilen.toNat = 2480 := by rw [loaded, zeros, List.length_replicate]; rfl
  rw [h]
  exact ⟨by decide, by decide, hw, fun b _ => passes_zeros _ b⟩

/-- Two frames, the second of which fails. -/
def secondBad : List Byte := zeros 155 ++ (zeros 155).set 10 1

theorem secondBad_spec :
    (loaded secondBad).ilen.toNat = 310 ∧ Written (loaded secondBad) 310 (byteAt secondBad)
      ∧ ¬FramePasses (byteAt secondBad) 1 ∧ ∀ c, c < 1 → FramePasses (byteAt secondBad) c := by
  have h : secondBad.length = 310 := by rw [secondBad, zeros, List.length_append, List.length_set, List.length_replicate]
  have hw := written_loaded secondBad
  rw [h] at hw
  refine ⟨by rw [loaded, h]; rfl, hw, ?_, ?_⟩
  · unfold FramePasses; decide +kernel
  · intro c hc
    obtain rfl : c = 0 := by omega
    unfold FramePasses; decide +kernel

theorem test_witness_UscrReportsTheFirstBadFrame :
    (loaded secondBad).ilen.toNat % 155 = 0 ∧ (loaded secondBad).ilen.toNat ≤ 2480
      ∧ Written (loaded secondBad) (loaded secondBad).ilen.toNat (byteAt secondBad)
      ∧ 1 < (loaded secondBad).ilen.toNat / 155 ∧ ¬FramePasses (byteAt secondBad) 1
      ∧ ∀ c, c < 1 → FramePasses (byteAt secondBad) c := by
  obtain ⟨h1, h2, h3, h4⟩ := secondBad_spec
  rw [h1]
  exact ⟨by decide, by decide, h2, by decide, h3, h4⟩

/-- A block of which one byte is written. -/
theorem test_witness_UnwrittenBytesActAsSomeBytes :
    { loaded [0xC5] with ilen := 2480 }.ilen.toNat ≤ 2480 ∧ 0 < { loaded [0xC5] with ilen := 2480 }.ilen.toNat
      ∧ Cells.read { loaded [0xC5] with ilen := 2480 }.ibuf 0 = some 0xC5#8 := by decide

theorem test_witness_DtrqFramesTheRequest :
    ∀ s ∈ [{ State.reset with count := 1 }, { State.reset with page := 0x3FFF, count := 0x4000 }],
      s.page.toNat ≤ 0x3FFF ∧ 1 ≤ s.count.toNat ∧ s.count.toNat ≤ 0x4000 := by decide

theorem test_witness_DtrqRangeRule :
    { State.reset with page := 0x4000, count := 1 }.page.toNat > 0x3FFF ∧ State.reset.count.toNat = 0
      ∧ { State.reset with count := 0x4001 }.count.toNat > 0x4000 := by decide

theorem test_witness_WrpgFramesThePage :
    { loaded (zeros 155) with page := 0x3FFF }.ilen.toNat = 155
      ∧ { loaded (zeros 155) with page := 0x3FFF }.page.toNat ≤ 0x3FFF
      ∧ Written { loaded (zeros 155) with page := 0x3FFF } 155 (byteAt (zeros 155)) :=
  ⟨by simp only [loaded, zeros, List.length_replicate]; decide, by decide,
    fun i hi => written_loaded (zeros 155) i (by rwa [zeros, List.length_replicate])⟩

theorem test_witness_WrpgErrorsAndTheirOrder :
    (∀ n ∈ [0, 154, 156], { State.reset with ilen := BitVec.ofNat 16 n, page := 0x4000 }.ilen.toNat ≠ 155)
      ∧ { State.reset with ilen := 155, page := 0x4000 }.ilen.toNat = 155
      ∧ { State.reset with ilen := 155, page := 0x4000 }.page.toNat > 0x3FFF := by decide

/-- Two sequences that differ in bit 7 alone (V11's change). -/
theorem test_witness_CsumLaws :
    [0xB3#8].map (fun b => b.toNat % 128) = [0x33#8].map (fun b => b.toNat % 128) := by decide

/-- A good frame; a second frame; offsets in and out of the sum. -/
theorem test_witness_CheckDetectsLowBitChanges :
    (goodFrame 0x33).length = 155 ∧ frameOK (goodFrame 0x33) = true ∧ ((goodFrame 0x33).set 20 0xCC).length = 155
      ∧ (∀ o ∈ [8, 153], 8 ≤ o ∧ o ≤ 153) ∧ (∀ o ∈ [0, 7, 154], o < 8 ∨ o = 154) := by decide +kernel

/-- Every frame passing; and a first failing frame. -/
theorem test_witness_ChkvChecksEveryFrame :
    ((loaded (zeros 2480)).ilen.toNat % 155 = 0 ∧ (loaded (zeros 2480)).ilen.toNat ≤ 2480
      ∧ Written (loaded (zeros 2480)) (loaded (zeros 2480)).ilen.toNat (byteAt (zeros 2480))
      ∧ ∀ b, b < (loaded (zeros 2480)).ilen.toNat / 155 → FramePasses (byteAt (zeros 2480)) b)
    ∧ Written (loaded secondBad) (loaded secondBad).ilen.toNat (byteAt secondBad)
      ∧ 1 < (loaded secondBad).ilen.toNat / 155 ∧ ¬FramePasses (byteAt secondBad) 1
      ∧ ∀ c, c < 1 → FramePasses (byteAt secondBad) c :=
  ⟨test_witness_UscrUnpacksGoodFrames, test_witness_UscrReportsTheFirstBadFrame.2.2⟩

/-- V1: the block of 80s, framed. -/
theorem test_witness_UnscrambleUndoesScramble :
    (blockOf 0x80).length = 125 * 1 ∧ ((packBlock (blockOf 0x80)).set 153 0x13).length = 155 * 1
      ∧ (∀ b o, b < 1 → 10 ≤ o → o < 153 →
          ((packBlock (blockOf 0x80)).set 153 0x13)[155 * b + o]? = (scramble (blockOf 0x80))[155 * b + o]?)
      ∧ ∀ b, b < 1 → frameOK (seg ((packBlock (blockOf 0x80)).set 153 0x13) (155 * b) (155 * b + 155)) = true := by
  have hl : (blockOf 0x80).length = 125 := by simp [blockOf]
  refine ⟨hl, by rw [List.length_set, length_packBlock _ hl], fun b o hb _ ho => ?_, by decide +kernel⟩
  obtain rfl : b = 0 := by omega
  rw [scramble_frame _ 1 0 o hl (by omega) (by omega), List.getElem?_set_ne (by omega), Nat.mul_zero, Nat.zero_add]
  have hs : seg (blockOf 0x80) (125 * 0) (125 * 0 + 125) = blockOf 0x80 := by decide
  rw [hs]

/-- A block of zeros, whose payload sums to 0 (V5); and two blocks, of which the second's does not (V1). -/
theorem test_witness_RawScrambleFailsUnlessPayloadSumsVanish :
    (zeros 125).length = 125 * 1
      ∧ (∀ b, b < 1 → byteSum (seg (scramble (zeros 125)) (155 * b + 10) (155 * b + 153)) % 128 = 0)
      ∧ (zeros 125 ++ blockOf 0x80).length = 125 * 2
      ∧ byteSum (seg (scramble (zeros 125 ++ blockOf 0x80)) (155 * 1 + 10) (155 * 1 + 153)) % 128 ≠ 0
      ∧ ∀ c, c < 1 → byteSum (seg (scramble (zeros 125 ++ blockOf 0x80)) (155 * c + 10) (155 * c + 153)) % 128 = 0 := by
  decide +kernel

/-- A WRPG from a packed block, and the state its output was copied into. -/
theorem test_witness_WrittenPageIsAcceptedBack :
    ∃ t u : State, exec .wrpg (loaded (packBlock (blockOf 0x80))) = .next t ∧ t.result = .ok ∧ u.ilen.toNat = 155
      ∧ (∀ j, j < 155 → Cells.read u.ibuf j = Cells.read t.obuf j) ∧ (blockOf 0x80).length = 125
      ∧ Written (loaded (packBlock (blockOf 0x80))) 155 (byteAt (packBlock (blockOf 0x80))) := by
  have runs : ∀ s : State, s.ilen.toNat = 155 → s.page.toNat = 0 → ∃ t, exec .wrpg s = .next t ∧ t.result = .ok := by
    intro s hi hp
    exact ⟨_, by simp only [exec, execWrpg, hi, hp]; rfl, rfl⟩
  have hl : (packBlock (blockOf 0x80)).length = 155 := length_packBlock _ (by simp [blockOf])
  have hw := written_loaded (packBlock (blockOf 0x80))
  rw [hl] at hw
  obtain ⟨t, ht, hr⟩ := runs (loaded (packBlock (blockOf 0x80))) (by rw [loaded, hl]; rfl) rfl
  exact ⟨t, { State.reset with ilen := 155, ibuf := t.obuf }, ht, hr, rfl, fun _ _ => rfl, by simp [blockOf], hw⟩

/-- A state with a command in flight, its step, and the state it makes. -/
theorem test_witness_StepKeepsTheInvariant :
    (busyAt (Script.r .status 3)).Inv ∧ (∃ t, step (busyAt (Script.r .status 3)) = .next t)
      ∧ ∃ t, step { busyAt (Script.r .status 3) with turns := [] } = .next t :=
  ⟨inv_busyAt _, ⟨_, rfl⟩, ⟨_, rfl⟩⟩

/-- A finished IDRQ, whose output of 5 bytes is readable. -/
theorem test_witness_FinishedOutputIsReadable :
    (afterIdrq (Script.r .olen 0)).Inv ∧ 4 < (afterIdrq (Script.r .olen 0)).olen.toNat := by
  refine ⟨?_, by decide⟩
  constructor <;> simp [afterIdrq, hostAt, Memory.wf, Cells.rising, Cells.run, wordResults]
  · decide
  · decide

end Sys2Proof.Tests
end

section
/-! PROOFS. The family 10_state.md: the invariant of the machine, the HOST's step seen from the block, commands over
unwritten input, and the step itself. -/

namespace Sys2Proof.Machine

/-! ## The invariant -/

/-- The invariant speaks of the block alone: FAULT, the draws, the HOST and the turns may be anything. -/
theorem State.Inv.withEnvironment {s : State} (hs : s.Inv) (f : Option Fault) (d : Nat) (h : HostAgent)
    (u : List Turn) : State.Inv { s with fault := f, draws := d, host := h, turns := u } where
  ibuf_wf := hs.ibuf_wf
  obuf_wf := hs.obuf_wf
  busy_legal := hs.busy_legal
  idle_legal := hs.idle_legal
  result_legal := hs.result_legal
  olen_le := hs.olen_le
  obuf_full := hs.obuf_full
  errblk_le := hs.errblk_le
  errblk_zero := hs.errblk_zero
  failed_olen := hs.failed_olen

/-- The reset input establishes the invariant, from any state (R141). -/
theorem inv_resetInput (s : State) : s.resetInput.Inv := by
  constructor <;> simp [wf_nil]

/-- A command start keeps the invariant: OLEN, ERRBLK and both buffers are not touched (R20). -/
theorem State.Inv.startCommand {s : State} (hs : s.Inv) (v : Word) : (s.startCommand v).Inv where
  ibuf_wf := hs.ibuf_wf
  obuf_wf := hs.obuf_wf
  busy_legal _ := ⟨rfl, rfl⟩
  idle_legal hb := absurd hb (by simp)
  result_legal hd := absurd hd (by simp)
  olen_le := hs.olen_le
  obuf_full := hs.obuf_full
  errblk_le := hs.errblk_le
  errblk_zero hd := absurd hd (by simp)
  failed_olen hr := absurd rfl hr

/-- A write to a mapped place keeps the invariant: it starts a command, stores an operand, or is ignored. -/
theorem State.Inv.writeTarget {s : State} (hs : s.Inv) {a : BusAddr} {t : Target} (ht : target? a = some t)
    (v : Word) : (s.writeTarget t v).Inv := by
  cases t with
  | cmd => exact hs.startCommand v
  | status | olen | errblk | obuf i => exact hs
  | ilen | page | count => exact { hs with }
  | ibuf i => exact { hs with ibuf_wf := wf_put _ _ _ hs.ibuf_wf (target?_ibuf_lt a i ht) }

/-- The HOST's step keeps the invariant. -/
theorem State.Inv.hostStep {s : State} (hs : s.Inv) : (hostStep s).Inv := by
  rcases hostStep_cases s with h | ⟨f, x, h⟩ | ⟨x, h⟩ | ⟨a, t, v, x, -, ht, h⟩ | ⟨n, x, h⟩ <;> rw [h]
  · exact hs
  · exact hs.withEnvironment (some f) s.draws x s.turns
  · exact hs.withEnvironment s.fault s.draws x s.turns
  · exact (hs.writeTarget ht v).withEnvironment _ _ x _
  · exact hs.withEnvironment s.fault (s.draws + n) x s.turns

/-- `finish(OK)` establishes the invariant where OBUF holds a value at every index below OLEN (R29, R126). -/
theorem inv_finish_ok (s : State) (hi : Memory.wf s.ibuf = true) (hc : .ok ∈ wordResults s.cmd)
    (ho : Memory.wf s.obuf = true) (hl : s.olen.toNat ≤ 2480)
    (hfull : ∀ j, j < s.olen.toNat → (Cells.read s.obuf j).isSome = true) : (s.finish .ok).Inv where
  ibuf_wf := hi
  obuf_wf := ho
  busy_legal hb := absurd hb (by simp)
  idle_legal _ hd := absurd hd (by simp)
  result_legal _ := hc
  olen_le := hl
  obuf_full := hfull
  errblk_le := Nat.zero_le _
  errblk_zero _ _ := rfl
  failed_olen hr := absurd rfl hr

/-- `finish` of a failure establishes the invariant: it empties OBUF, and ERRBLK is 0 or the frame number that
CHECKSUM_ERROR has set (R126). -/
theorem inv_finish_failed (s : State) (c : ResultCode) (hi : Memory.wf s.ibuf = true) (hc : c ∈ wordResults s.cmd)
    (hne : c ≠ .ok) (he : c = .checksumError → s.errblk.toNat ≤ 15) : (s.finish c).Inv where
  ibuf_wf := hi
  obuf_wf := by simp [hne, wf_nil]
  busy_legal hb := absurd hb (by simp)
  idle_legal _ hd := absurd hd (by simp)
  result_legal _ := hc
  olen_le := by simp [hne]
  obuf_full := by simp [hne]
  errblk_le := by
    rw [finish_errblk]; split
    · exact he ‹_›
    · simp
  errblk_zero _ hr := if_neg hr
  failed_olen hr := if_neg hr

/-- A command that succeeds with an output that fits OBUF keeps the invariant. -/
theorem State.Inv.succeeded {s : State} (hs : s.Inv) (d : Nat) (out : List Byte) (hl : out.length ≤ 2480)
    (hc : .ok ∈ wordResults s.cmd) : (((s.drawn d).writeOutput out).finish .ok).Inv := by
  have holen : ((s.drawn d).writeOutput out).olen.toNat = out.length := succeeded_olen s d out hl
  refine inv_finish_ok _ hs.ibuf_wf hc (wf_putRun _ 0 out hs.obuf_wf (by omega)) (holen ▸ hl) fun j hj => ?_
  rw [holen] at hj
  rw [writeOutput_obuf, read_putRun, if_pos (by omega), Nat.sub_zero, List.getElem?_eq_getElem hj, Option.isSome_some]

/-- A command finishes with one of the results R123 lists for it. -/
theorem exec_result_mem (i : Instr) (s t : State) (h : exec i s = .next t) : t.result ∈ instrResults i := by
  rcases exec_cases i s t h with ⟨d, out, -, -, rfl⟩ | ⟨d, rfl, rfl⟩ | ⟨d, b, -, hi, rfl⟩ | ⟨c, -, -, hi, rfl⟩
  · cases i <;> simp [instrResults]
  · simp [instrResults]
  · rcases hi with rfl | rfl <;> simp [instrResults]
  · rcases hi with ⟨rfl, rfl | rfl | rfl⟩ | ⟨rfl, rfl | rfl⟩ | ⟨rfl, rfl⟩ <;> simp [instrResults]

/-- Running the command in CMD keeps the invariant. -/
theorem State.Inv.exec {s t : State} (hs : s.Inv) {i : Instr} (hi : decode s.cmd = .ok i) (h : exec i s = .next t) :
    t.Inv := by
  have hr : t.result ∈ wordResults s.cmd := by simpa only [wordResults, hi] using exec_result_mem i s t h
  rcases exec_cases i s t h with ⟨d, out, hl, -, rfl⟩ | ⟨d, -, rfl⟩ | ⟨d, b, hb, -, rfl⟩ | ⟨c, hok, hsum, -, rfl⟩
  · exact hs.succeeded d out hl hr
  · exact inv_finish_ok _ hs.ibuf_wf hr hs.obuf_wf (by simp) (by simp)
  · refine inv_finish_failed _ _ hs.ibuf_wf hr (by simp) fun _ => ?_
    rw [setErrblk_errblk, BitVec.toNat_ofNat]
    omega
  · exact inv_finish_failed _ _ hs.ibuf_wf hr hok (absurd · hsum)

/-- The ENGINE's step keeps the invariant. -/
theorem State.Inv.engineStep {s t : State} (hs : s.Inv) (h : engineStep s = .next t) : t.Inv := by
  cases hb : s.busy with
  | false =>
    obtain rfl : s = t := by simpa [Machine.engineStep, hb] using h
    exact hs
  | true =>
    rcases engineStep_cases s hb with ⟨i, hi, he⟩ | ⟨e, hd, he⟩
    · exact hs.exec hi (he ▸ h)
    · obtain rfl : s.finish .illegalCommand = t := by simpa [he] using h
      exact inv_finish_failed _ _ hs.ibuf_wf (by simp [wordResults, hd]) (by simp) (by simp)

end Sys2Proof.Machine

namespace Sys2Proof.Proofs

open Sys2Proof.Machine Sys2Proof.Claims

/-- Settles O47: a step is the reset input, the HOST's step or the ENGINE's, and each keeps the invariant. -/
theorem stepKeepsTheInvariant : Obligations.StepKeepsTheInvariant := by
  intro s t hs h
  have hp : s.popTurn.Inv := hs.withEnvironment s.fault s.draws s.host s.turns.tail
  obtain ⟨-, ⟨-, rfl⟩ | ⟨-, rfl⟩ | ⟨-, he⟩⟩ := step_cases s t h
  · exact inv_resetInput _
  · exact hp.hostStep
  · exact hp.engineStep he

/-- Settles O48: the reset state is what the reset input makes of itself. -/
theorem resetMeetsTheInvariant : Obligations.ResetMeetsTheInvariant :=
  inv_resetInput State.reset

/-- Settles O49: OBUF is full below OLEN, and OLEN is at most BUF_CAP, so the window word of such a byte is mapped. -/
theorem finishedOutputIsReadable : Obligations.FinishedOutputIsReadable := by
  intro s hs i hi
  obtain ⟨b, hb⟩ := Option.isSome_iff_exists.1 (hs.obuf_full i hi)
  have hlt : i < 2480 := Nat.lt_of_lt_of_le hi hs.olen_le
  have ht : target? (BitVec.ofNat 16 (0x4000 + 4 * i)) = some (.obuf i) := by
    rw [target?_eq_some]
    dsimp only
    rw [toNat_addr_obuf i hlt]
    omega
  exact ⟨b, hb, by simp [State.busRead, ht, State.readTarget, hi, byteOrDraw, hb]⟩

end Sys2Proof.Proofs

/-! ## The HOST's step, seen from the block -/

namespace Sys2Proof.Machine

open Sys2Proof.Claims

/-- The HOST's step leaves the block as it is, or it makes a write, which takes BUSY = 0 (R146). -/
theorem hostStep_sameBlock_or_write (s : State) :
    SameBlock s (hostStep s)
      ∨ ∃ t v h, s.busy = false ∧ hostStep s = { s.writeTarget t v with host := h } := by
  rcases hostStep_cases s with h | ⟨f, x, h⟩ | ⟨x, h⟩ | ⟨a, t, v, x, hb, -, h⟩ | ⟨n, x, h⟩
  case inr.inr.inr.inl => exact .inr ⟨t, v, x, hb, h⟩
  all_goals
    rw [h]
    exact .inl ⟨rfl, rfl, rfl, rfl, rfl, rfl, rfl, rfl, rfl, fun _ => rfl, fun _ => rfl⟩

variable (s : State) (t : Target) (v : Word)

@[simp] theorem writeTarget_olen : (s.writeTarget t v).olen = s.olen := by cases t <;> rfl
@[simp] theorem writeTarget_errblk : (s.writeTarget t v).errblk = s.errblk := by cases t <;> rfl
@[simp] theorem writeTarget_obuf : (s.writeTarget t v).obuf = s.obuf := by cases t <;> rfl

/-- A write starts a command (CMD), or it changes neither STATUS nor CMD (R20, R22). -/
theorem writeTarget_status_or_start :
    ((s.writeTarget t v).busy = s.busy ∧ (s.writeTarget t v).done = s.done
        ∧ (s.writeTarget t v).result = s.result ∧ (s.writeTarget t v).cmd = s.cmd)
      ∨ s.writeTarget t v = s.startCommand v := by
  cases t with
  | cmd => exact .inr rfl
  | status | ilen | olen | page | count | errblk | ibuf i | obuf i => exact .inl ⟨rfl, rfl, rfl, rfl⟩

variable {s t}

/-- A step on the HOST's turn is the HOST's step. -/
theorem eq_hostStep_of_step {u : State} (hn : s.nextTurn = .host) (h : step s = .next u) : u = hostStep s.popTurn := by
  obtain ⟨-, ⟨hn', -⟩ | ⟨-, hu⟩ | ⟨hn', -⟩⟩ := step_cases s u h
  · exact absurd (hn.symm.trans hn') (by decide)
  · exact hu
  · exact absurd (hn.symm.trans hn') (by decide)

end Sys2Proof.Machine

namespace Sys2Proof.Proofs

open Sys2Proof.Machine Sys2Proof.Claims

/-- Settles O23: the one HOST step that changes the block is a write, and a write is made with BUSY = 0 alone. -/
theorem hostCannotDisturbACommand : Obligations.HostCannotDisturbACommand := by
  intro s t hb hn h
  rw [eq_hostStep_of_step hn h]
  rcases hostStep_sameBlock_or_write s.popTurn with hsame | ⟨_, _, _, hidle, -⟩
  · exact hsame
  · exact absurd (hb.symm.trans hidle) (by decide)

/-- Settles O24: the HOST changes the block by a write alone, and only a write of CMD touches STATUS and CMD. -/
theorem hostNeverWritesResults : Obligations.HostNeverWritesResults := by
  intro s t hn h
  rw [eq_hostStep_of_step hn h]
  rcases hostStep_sameBlock_or_write s.popTurn with hsame | ⟨a, v, x, hidle, hw⟩
  · obtain ⟨hcmd, hbusy, hdone, hresult, -, holen, -, -, herr, -, hobuf⟩ := hsame
    exact ⟨holen, herr, hobuf, .inl ⟨hbusy, hdone, hresult, hcmd⟩⟩
  · rw [hw]
    refine ⟨by simp, by simp, by simp, ?_⟩
    rcases writeTarget_status_or_start s.popTurn a v with hkeep | hstart
    · exact .inl hkeep
    · rw [hstart]
      exact .inr ⟨hidle, rfl, rfl, rfl⟩

end Sys2Proof.Proofs

/-! ## Accesses the HOST makes and accesses it is refused -/

namespace Sys2Proof.Machine

variable {s : State} {a : BusAddr} {t : Target}

/-- With BUSY = 0 a word write to a mapped place is made. -/
theorem hostWrite_of_idle (v : Word) (pc : Nat) (hb : s.busy = false) (ha : a.toNat % 4 = 0)
    (ht : target? a = some t) :
    hostWrite a 4 v pc s = { s.writeTarget t v with host := s.host.made pc (.write a v) } := by
  have hf : s.accessFault .write a 4 = none := by rw [accessFault_mapped s _ a t ha ht, if_neg (by simp [hb])]
  simp [hostWrite, hf, State.busWrite, ht]

/-- With BUSY = 1 a word write to a mapped place is a host hazard (R146). -/
theorem hostWrite_of_busy (v : Word) (pc : Nat) (hb : s.busy = true) (ha : a.toNat % 4 = 0)
    (ht : target? a = some t) :
    hostWrite a 4 v pc s = s.refuse (.hostHazard a) (.refusedWrite a v (.hostHazard a)) := by
  have hf : s.accessFault .write a 4 = some (.hostHazard a) := by
    rw [accessFault_mapped s _ a t ha ht, if_pos (by simp [hb])]
  simp [hostWrite, hf]

end Sys2Proof.Machine

namespace Sys2Proof.Proofs

open Sys2Proof.Machine Sys2Proof.Claims

/-- Settles O13: address 0 names CMD; with BUSY = 0 the write is made, with BUSY = 1 it is refused. -/
theorem commandStartLatchesTheWord : Obligations.CommandStartLatchesTheWord := by
  intro s a v pc ⟨hf, hn, hs⟩ ha
  have ht : target? 0x0000#16 = some .cmd := rfl
  rw [step_host s _ pc hf hn hs, hostStmt, ha]
  constructor <;> intro hb
  · rw [hostWrite_of_idle (s := s.popTurn) _ pc hb rfl ht]; rfl
  · rw [hostWrite_of_busy (s := s.popTurn) _ pc hb rfl ht]; rfl

/-- Settles O15: the three addresses name read-only places, and a write of such a place is made and changes nothing. -/
theorem readOnlyWritesAreIgnored : Obligations.ReadOnlyWritesAreIgnored := by
  intro s a v pc ⟨hf, hn, hs⟩ hb ha
  rw [step_host s _ pc hf hn hs, hostStmt]
  rcases ha with ha | ha | ha <;> rw [ha]
  · rw [hostWrite_of_idle (s := s.popTurn) (t := .status) _ pc hb rfl rfl]; rfl
  · rw [hostWrite_of_idle (s := s.popTurn) (t := .olen) _ pc hb rfl rfl]; rfl
  · rw [hostWrite_of_idle (s := s.popTurn) (t := .errblk) _ pc hb rfl rfl]; rfl

end Sys2Proof.Proofs

/-! ## The ENGINE's turn, and the reset input's -/

namespace Sys2Proof.Machine

variable {s : State}

/-- On the ENGINE's turn a step is the ENGINE's step. -/
theorem step_engine (hf : s.fault = none) (hn : s.nextTurn = .engine) : step s = engineStep s.popTurn := by
  simp [step, hf, hn]

/-- On the ENGINE's turn with BUSY = 1 a step is the meaning of the command in CMD (R15). -/
theorem step_engine_exec {i : Instr} (hf : s.fault = none) (hn : s.nextTurn = .engine) (hb : s.busy = true)
    (hd : decode s.cmd = .ok i) : step s = exec i s.popTurn := by
  rw [step_engine hf hn]
  simp [engineStep, hb, hd]

/-- With a fault on record there is no step (R34). -/
theorem step_of_fault {f : Fault} (hf : s.fault = some f) : step s = .fault f := by
  simp [step, hf]

/-- On the reset input's turn a step is the reset input (R141). -/
theorem step_reset (hf : s.fault = none) (hn : s.nextTurn = .reset) : step s = .next s.popTurn.resetInput := by
  simp [step, hf, hn]

/-- The decoder gives each command back from its word. -/
theorem decode_encode (i : Instr) : decode (encode i) = .ok i := by
  cases i <;> decide

/-- A command's word placed from outside is latched whole. -/
theorem withFetchWord_encode (s : State) (i : Instr) :
    s.withFetchWord 32 (encode i).toNat = s.latchCommand (encode i) := by
  rw [State.withFetchWord, Nat.mod_eq_of_lt (encode i).isLt, BitVec.ofNat_toNat, BitVec.setWidth_eq]

end Sys2Proof.Machine

namespace Sys2Proof.Proofs

open Sys2Proof.Machine Sys2Proof.Claims

/-- Settles O5, clause by clause from what a step is on the ENGINE's turn. -/
theorem stepRunsTheDecodedCommand : Obligations.StepRunsTheDecodedCommand := by
  refine ⟨fun s i hf hn hb hd => step_engine_exec hf hn hb hd, fun s f hf => step_of_fault hf, fun s hf hn hb => ?_⟩
  rw [step_engine hf hn, engineStep, if_neg (by simp [hb])]
  rfl

/-- Settles O6: the latched state has the ENGINE's turn, BUSY = 1 and the command's own word in CMD. -/
theorem fetchedWordIsRunNext : Obligations.FetchedWordIsRunNext := by
  intro s i
  rw [withFetchWord_encode]
  exact step_engine_exec rfl rfl rfl (decode_encode i)

/-- Settles O26: the reset input's turn is State.resetInput, which holds the values of State.reset. -/
theorem resetClearsTheBlock : Obligations.ResetClearsTheBlock := by
  refine ⟨fun s hf hn => ⟨s.popTurn.resetInput, step_reset hf hn, ?_⟩, fun s f hf _ => step_of_fault hf, ?_⟩
  · exact ⟨rfl, rfl, rfl, rfl, rfl, rfl, rfl, rfl, rfl, fun _ => rfl, fun _ => rfl, rfl, rfl, rfl⟩
  · exact ⟨rfl, rfl, rfl, rfl, rfl, rfl, rfl, rfl, rfl, fun _ => rfl, fun _ => rfl, rfl⟩

end Sys2Proof.Proofs

/-! ## Commands over unwritten input -/

namespace Sys2Proof.Machine

/-- `s` with another IBUF. -/
def State.withIbuf (m : Memory) (s : State) : State := { s with ibuf := m }

@[simp] theorem withIbuf_ilen (m : Memory) (s : State) : (s.withIbuf m).ilen = s.ilen := rfl
@[simp] theorem withIbuf_page (m : Memory) (s : State) : (s.withIbuf m).page = s.page := rfl
@[simp] theorem withIbuf_count (m : Memory) (s : State) : (s.withIbuf m).count = s.count := rfl

/-- Two IBUFs that read alike below ILEN make a command do the same: it reads IBUF there alone, through `State.input`,
and never writes it (R76, R127). -/
theorem exec_withIbuf (i : Instr) (s : State) (m : Memory)
    (hm : (s.withIbuf m).input s.ilen.toNat = s.input s.ilen.toNat) :
    ∃ t, exec i s = .next t ∧ exec i (s.withIbuf m) = .next (t.withIbuf m) := by
  cases i with
  | scr =>
    simp only [exec, execScr, withIbuf_ilen, hm]
    split <;> exact ⟨_, rfl, rfl⟩
  | uscr =>
    simp only [exec, execUscr, withIbuf_ilen, hm]
    split
    · split <;> exact ⟨_, rfl, rfl⟩
    · exact ⟨_, rfl, rfl⟩
  | chkv =>
    simp only [exec, execChkv, withIbuf_ilen, hm]
    split
    · split <;> exact ⟨_, rfl, rfl⟩
    · exact ⟨_, rfl, rfl⟩
  | idrq => exact ⟨_, rfl, rfl⟩
  | dtrq =>
    by_cases hr : (pageTooLarge s.page.toNat || countOutOfRange s.count.toNat) = true
    · exact ⟨_, if_pos hr, if_pos hr⟩
    · exact ⟨_, if_neg hr, if_neg hr⟩
  | wrpg =>
    by_cases hn : s.ilen.toNat = Config.frame
    · rw [hn] at hm
      simp only [exec, execWrpg, withIbuf_ilen, withIbuf_page, hn, hm, ne_eq, not_true_eq_false, if_false]
      cases pageTooLarge s.page.toNat <;> exact ⟨_, rfl, rfl⟩
    · exact ⟨_, if_pos hn, if_pos hn⟩

/-- Once the input a command would read has been written to IBUF, it is the input the command reads. -/
theorem input_written (s : State) (n : Nat) : (s.withIbuf (Cells.putRun s.ibuf 0 (s.input n))).input n = s.input n := by
  refine List.map_congr_left fun i hi => ?_
  have hi : i < n := List.mem_range.1 hi
  have hread : Cells.read (Cells.putRun s.ibuf 0 (s.input n)) i = some (byteOrDraw s.ibuf i (s.draws + i)) := by
    rw [read_putRun, length_input, if_pos (by omega), Nat.sub_zero, input_getElem? s n i hi, byteOrDraw]
  simp [State.withIbuf, byteOrDraw, hread]

end Sys2Proof.Machine

namespace Sys2Proof.Proofs

open Sys2Proof.Machine Sys2Proof.Claims

/-- Settles O34: the input is the one the command reads, the draws of the unwritten bytes among it. -/
theorem unwrittenBytesActAsSomeBytes : Obligations.UnwrittenBytesActAsSomeBytes := by
  intro i s _
  obtain ⟨t, ht, ht'⟩ := exec_withIbuf i s _ (input_written s s.ilen.toNat)
  refine ⟨s.input s.ilen.toNat, length_input _ _, fun j b hj hb => ?_, t, ht, ht'⟩
  rw [input_getElem? _ _ _ hj, hb, Option.getD_some]

end Sys2Proof.Proofs
end

section
/-! PROOFS. The family 20_memory.md: the address map read as places, what a word access to a place does with BUSY = 0,
and the accesses that are a bus error. -/

namespace Sys2Proof.Machine

open Sys2Proof.Claims

/-! ## The address map, from an address to its place -/

section

variable {a : BusAddr}

/-- A word-aligned address of the map names a place (R49). -/
theorem exists_target_of_mapped (ha : a.toNat % 4 = 0) (hm : Mapped a) : ∃ t, target? a = some t :=
  Option.ne_none_iff_exists'.1 fun hn => (target?_eq_none a ha).1 hn hm

/-- A misaligned access, one not of 32 bits or one outside the map raises BusError, BUSY or not (R42, R47, R50). -/
theorem accessFault_of_not_mapped (s : State) (dir : Dir) {size : Nat}
    (h : size ≠ 4 ∨ a.toNat % 4 ≠ 0 ∨ ¬Mapped a) : s.accessFault dir a size = some (.busError a) := by
  apply accessFault_busError
  by_cases ha : a.toNat % 4 = 0
  · exact h.imp_right (Or.imp_right (target?_eq_none a ha).2)
  · exact .inr (.inl ha)

/-- Word `i` of the IBUF window names byte `i` of IBUF (R51). -/
theorem target?_ibuf {i : Nat} (hi : i < 2480) (ha : a.toNat = 0x1000 + 4 * i) : target? a = some (.ibuf i) := by
  rw [target?_eq_some]
  dsimp only
  omega

/-- Word `i` of the OBUF window names byte `i` of OBUF (R52). -/
theorem target?_obuf {i : Nat} (hi : i < 2480) (ha : a.toNat = 0x4000 + 4 * i) : target? a = some (.obuf i) := by
  rw [target?_eq_some]
  dsimp only
  omega

/-- A read returns the value of the place its address names. -/
theorem busRead_of_target (s : State) {t : Target} (ht : target? a = some t) : s.busRead a = s.readTarget t := by
  simp only [State.busRead, ht]

/-- Taking a turn does not change what a read returns. -/
@[simp] theorem popTurn_busRead (s : State) (a : BusAddr) : s.popTurn.busRead a = s.busRead a := rfl

/-- A read of word `i` of the IBUF window returns byte `i` of IBUF, or the next draw (R51). -/
theorem busRead_ibuf (s : State) {i : Nat} (hi : i < 2480) :
    s.busRead (BitVec.ofNat 16 (0x1000 + 4 * i)) = (byteOrDraw s.ibuf i s.draws).setWidth 32 :=
  busRead_of_target s (target?_ibuf hi (toNat_addr_ibuf i hi))

/-- A read of word `i` of the OBUF window returns byte `i` of OBUF below OLEN, and the next draw from there on (R52). -/
theorem busRead_obuf (s : State) {i : Nat} (hi : i < 2480) :
    s.busRead (BitVec.ofNat 16 (0x4000 + 4 * i))
      = (if i < s.olen.toNat then byteOrDraw s.obuf i s.draws else Config.drawByte s.draws).setWidth 32 :=
  busRead_of_target s (target?_obuf hi (toNat_addr_obuf i hi))

/-- A listed byte reads as it is, whatever the draw. -/
theorem byteOrDraw_of_read_some {m : Memory} {i : Nat} {b : Byte} (h : Cells.read m i = some b) (d : Nat) :
    byteOrDraw m i d = b := by
  simp [byteOrDraw, h]

/-- An unlisted byte reads as the draw. -/
theorem byteOrDraw_of_read_none {m : Memory} {i : Nat} (h : Cells.read m i = none) (d : Nat) :
    byteOrDraw m i d = Config.drawByte d := by
  simp [byteOrDraw, h]

end

/-! ## Values -/

/-- The low `n` bits of a value, by its number. -/
theorem setWidth_eq_ofNat_mod {k : Nat} (n : Nat) (v : BitVec k) : v.setWidth n = BitVec.ofNat n (v.toNat % 2 ^ n) :=
  BitVec.eq_of_toNat_eq (by simp)

/-- A result code's number is its RESULT field (R121). -/
theorem code_toNat (r : ResultCode) : r.code.toNat = codeNumber r := by
  cases r <;> rfl

/-- A write to byte `i` of IBUF stores the low byte of the word there (R51). -/
theorem writeTarget_ibuf (s : State) (i : Nat) (v : Word) :
    (s.writeTarget (.ibuf i) v).ibuf = Cells.put s.ibuf i (v.setWidth 8) := rfl

/-! ## Steps of the HOST that are an access -/

variable {s : State} {a : HostAddr} {pc : Nat} {t : Target}

/-- With BUSY = 0 a word write to a mapped place is made. -/
theorem step_write_of_idle {v : HostValue} (hr : HostRuns s (.write a 4 v) pc) (hb : s.busy = false)
    (ha : a.addr.toNat % 4 = 0) (ht : target? a.addr = some t) :
    step s = .next { s.popTurn.writeTarget t (s.host.value v) with
      host := s.host.made pc (.write a.addr (s.host.value v)) } := by
  obtain ⟨hf, hn, hs⟩ := hr
  rw [step_host s _ pc hf hn hs, hostStmt]
  exact congrArg _ (hostWrite_of_idle (s := s.popTurn) _ pc hb ha ht)

/-- With BUSY = 0 a word read of a mapped place is made. -/
theorem step_read_of_idle {dst : Option HostVar} (hr : HostRuns s (.read a 4 dst) pc) (hb : s.busy = false)
    (ha : a.addr.toNat % 4 = 0) (ht : target? a.addr = some t) :
    step s = .next { s.popTurn.drawn t.drawCost with
      host := (s.host.made pc (.read a.addr (s.busRead a.addr))).keep dst (s.busRead a.addr) } := by
  obtain ⟨hf, hn, hs⟩ := hr
  have hok : s.popTurn.accessFault .read a.addr 4 = none := by
    rw [accessFault_mapped _ _ _ t ha ht, if_neg (by simp [hb])]
  simp [step_host s _ pc hf hn hs, hostStmt, hostRead, hok, State.afterRead, ht]

/-- A write whose access raises a fault is refused. -/
theorem step_write_refused {size : Nat} {v : HostValue} {f : Fault} (hr : HostRuns s (.write a size v) pc)
    (hfault : s.popTurn.accessFault .write a.addr size = some f) :
    step s = .next (refused s f (.refusedWrite a.addr (s.host.value v) f)) := by
  obtain ⟨hf, hn, hs⟩ := hr
  rw [step_host s _ pc hf hn hs, hostStmt, hostWrite, hfault]
  rfl

/-- A read whose access raises a fault is refused. -/
theorem step_read_refused {size : Nat} {dst : Option HostVar} {f : Fault} (hr : HostRuns s (.read a size dst) pc)
    (hfault : s.popTurn.accessFault .read a.addr size = some f) :
    step s = .next (refused s f (.refusedRead a.addr f)) := by
  obtain ⟨hf, hn, hs⟩ := hr
  rw [step_host s _ pc hf hn hs, hostStmt, hostRead, hfault]
  rfl

end Sys2Proof.Machine

namespace Sys2Proof.Proofs

open Sys2Proof.Machine Sys2Proof.Claims

/-- Settles O17: a read of a mapped place takes a draw position at most, and goes on with the HOST alone changed. -/
theorem readsHaveNoSideEffect : Obligations.ReadsHaveNoSideEffect := by
  intro s a dst pc hr hb ha hm
  obtain ⟨t, ht⟩ := exists_target_of_mapped ha hm
  refine ⟨_, step_read_of_idle hr hb ha ht, ?same, hr.1, rfl, ?pc, ?script, ?failed, ?trace, ?vars⟩
  case same => exact ⟨rfl, rfl, rfl, rfl, rfl, rfl, rfl, rfl, rfl, fun _ => rfl, fun _ => rfl⟩
  case vars => exact fun y => read_keep_vars _ dst _ y
  all_goals simp

/-- Settles O18: the word names byte `i` of IBUF, which a read returns or draws, and a write stores. -/
theorem ibufWindowIsOneBytePerWord : Obligations.IbufWindowIsOneBytePerWord := by
  intro s i hi
  refine ⟨fun b hread => ?_, fun hread => ?_, fun a v pc hr hb ha => ?_⟩
  · rw [busRead_ibuf s hi, byteOrDraw_of_read_some hread, BitVec.toNat_setWidth_of_le (by decide)]
  · rw [busRead_ibuf s hi, byteOrDraw_of_read_none hread]
  · refine ⟨_, step_write_of_idle hr hb (by omega) (target?_ibuf hi ha), ?_, fun j hj => ?_⟩
    · rw [writeTarget_ibuf, read_put, if_pos rfl]
      exact congrArg some (setWidth_eq_ofNat_mod 8 _)
    · rw [writeTarget_ibuf, read_put, if_neg hj, popTurn_ibuf]

/-- Settles O19: the word names byte `i` of OBUF, which a read returns below OLEN alone and a write leaves alone. -/
theorem obufReadsAreGatedByOlen : Obligations.ObufReadsAreGatedByOlen := by
  intro s i hi
  refine ⟨fun b hlt hread => ?_, fun hge => ?_, fun a v pc hr hb ha => ?_⟩
  · rw [busRead_obuf s hi, if_pos hlt, byteOrDraw_of_read_some hread, BitVec.toNat_setWidth_of_le (by decide)]
  · rw [busRead_obuf s hi, if_neg (by omega)]
  · exact step_write_of_idle hr hb (by omega) (target?_obuf hi ha)

/-- Settles O20: each of the three causes raises BusError whatever BUSY is, and a recorded fault stops the machine. -/
theorem busErrorsAreRecorded : Obligations.BusErrorsAreRecorded := by
  intro s a size v dst pc hbad
  constructor <;> intro hr
  · exact ⟨_, rfl, step_write_refused hr (accessFault_of_not_mapped _ _ hbad), step_of_fault rfl⟩
  · exact ⟨_, rfl, step_read_refused hr (accessFault_of_not_mapped _ _ hbad), step_of_fault rfl⟩

/-- Settles O14: the three addresses name the operand registers, each of which stores the low 16 bits. -/
theorem operandRegisterWritesStoreLowHalf : Obligations.OperandRegisterWritesStoreLowHalf := by
  intro s a v pc hr hb
  have hx := setWidth_eq_ofNat_mod 16 (s.host.value v)
  refine ⟨fun ha => ?_, fun ha => ?_, fun ha => ?_⟩
  · rw [step_write_of_idle (t := .ilen) hr hb (by rw [ha]; rfl) (by rw [ha]; rfl), State.writeTarget, hx]; rfl
  · rw [step_write_of_idle (t := .page) hr hb (by rw [ha]; rfl) (by rw [ha]; rfl), State.writeTarget, hx]; rfl
  · rw [step_write_of_idle (t := .count) hr hb (by rw [ha]; rfl) (by rw [ha]; rfl), State.writeTarget, hx]; rfl

/-- Settles O16: CMD reads whole, STATUS as its three fields, and a 16-bit field zero extended. -/
theorem registerReadsReturnTheFields : Obligations.RegisterReadsReturnTheFields := by
  intro s
  have hhalf (x : Half) : (x.setWidth 32).toNat = x.toNat := BitVec.toNat_setWidth_of_le (by decide)
  refine ⟨rfl, ?status, hhalf _, hhalf _, hhalf _, hhalf _, hhalf _⟩
  calc (s.busRead 0x0004#16).toNat
      = s.busy.toNat + 2 * s.done.toNat + 16 * s.result.code.toNat := statusWord_toNat _ _ _
    _ = _ := by rw [code_toNat]; cases s.busy <;> cases s.done <;> rfl

end Sys2Proof.Proofs
end

section
/-! PROOFS. The family 30_encoding.md: which words are commands, an illegal word, the output of SCR, DTRQ and WRPG byte
by byte, and the HOST's IF and CHECK. -/

/-! ## The decoder, both ways -/

namespace Sys2Proof.Machine

/-- Every row of the opcode map compares all 32 bits, with its command's word (R64). -/
theorem opTable_row : ∀ r ∈ opTable, r.mask = BitVec.allOnes 32 ∧ r.word = encode r.instr := by decide

/-- A word matches a row of the opcode map exactly when it is the word of the row's command. -/
theorem matches_row_iff (w : Word) {r : OpRow} (hr : r ∈ opTable) :
    (w &&& r.mask == r.word) = true ↔ w = encode r.instr := by
  obtain ⟨hmask, hword⟩ := opTable_row r hr
  rw [hmask, hword, BitVec.and_allOnes, beq_iff_eq]

/-- A word that decodes to a command is that command's word. -/
theorem eq_encode_of_decode {w : Word} {i : Instr} (h : decode w = .ok i) : w = encode i := by
  rw [decode] at h
  split at h
  · rename_i r hr
    injection h with hi
    have hmatch := List.find?_some hr
    exact hi ▸ (matches_row_iff w (List.mem_of_find?_eq_some hr)).1 hmatch
  · split at h <;> cases h

/-- A word decodes to a command exactly when it is that command's word (R64). -/
theorem decode_eq_ok_iff (w : Word) (i : Instr) : decode w = .ok i ↔ w = encode i :=
  ⟨eq_encode_of_decode, fun h => h ▸ decode_encode i⟩

/-- The words that are no command's, by number (R65). -/
theorem ne_encode_iff (w : Word) :
    (∀ i, w ≠ encode i) ↔ w.toNat = 0 ∨ (4 ≤ w.toNat ∧ w.toNat ≤ 0x0F) ∨ 0x13 ≤ w.toNat := by
  constructor
  · intro h
    have hne (i : Instr) : w.toNat ≠ (encode i).toNat := fun he => h i (BitVec.eq_of_toNat_eq he)
    have h1 : w.toNat ≠ 1 := hne .scr
    have h2 : w.toNat ≠ 2 := hne .uscr
    have h3 : w.toNat ≠ 3 := hne .chkv
    have h16 : w.toNat ≠ 16 := hne .idrq
    have h17 : w.toNat ≠ 17 := hne .dtrq
    have h18 : w.toNat ≠ 18 := hne .wrpg
    omega
  · rintro h i rfl
    revert h
    cases i <;> decide

/-- A word that is no command's is rejected with its RSV, or with its OP where RSV is 0 (R65). -/
theorem decode_of_ne_encode {w : Word} (h : ∀ i, w ≠ encode i) :
    decode w = if cmdRsv w ≠ 0 then .error (.reservedBits (cmdRsv w)) else .error (.reservedOpcode (cmdOp w)) := by
  have hnone : opTable.find? (fun r => w &&& r.mask == r.word) = none :=
    List.find?_eq_none.2 fun r hr hmatch => h r.instr ((matches_row_iff w hr).1 hmatch)
  rw [decode, hnone]

/-- RSV by number (R63). -/
theorem cmdRsv_eq (w : Word) : cmdRsv w = BitVec.ofNat 24 (w.toNat / 256) :=
  congrArg (BitVec.ofNat 24) (Nat.shiftRight_eq_div_pow w.toNat 8)

/-- OP by number (R63). -/
theorem cmdOp_eq (w : Word) : cmdOp w = BitVec.ofNat 8 w.toNat := rfl

/-- RSV is 0 exactly when the word is below 256. -/
theorem cmdRsv_eq_zero_iff (w : Word) : cmdRsv w = 0 ↔ w.toNat / 256 = 0 := by
  have hlt : w.toNat / 256 < 2 ^ 24 := by have := w.isLt; omega
  rw [cmdRsv_eq, ← BitVec.toNat_inj, BitVec.toNat_ofNat, Nat.mod_eq_of_lt hlt]
  rfl

/-- The opcode table's numbering of a command word is the word itself. -/
theorem decodeTableWord_toNat (w : Word) : decodeTableWord 32 w.toNat = (decode w).toOption := by
  simp [decodeTableWord, Nat.mod_eq_of_lt w.isLt, w.isLt]

/-- Every command's word is legal (R65). -/
theorem legalCommandWord_encode (i : Instr) : legalCommandWord (encode i) = true := by
  cases i <;> decide

end Sys2Proof.Machine

namespace Sys2Proof.Proofs

open Sys2Proof.Machine Sys2Proof.Claims

/-- Settles O1: every row of the opcode map compares all 32 bits with its command's word. -/
theorem decodeMatchesExactlyTheSixWords : Obligations.DecodeMatchesExactlyTheSixWords :=
  ⟨rfl, rfl, rfl, rfl, rfl, rfl, decode_eq_ok_iff⟩

/-- Settles O2: a word of the first two clauses is no command's, so its RSV decides; any other word is a command's. -/
theorem illegalWordsAreRejectedByName : Obligations.IllegalWordsAreRejectedByName := by
  intro w
  refine ⟨fun hrsv => ?_, fun hrsv hop => ?_, fun _ hop => ?_⟩
  · have hne : ∀ i, w ≠ encode i := (ne_encode_iff w).2 (by omega)
    rw [decode_of_ne_encode hne, if_pos (mt (cmdRsv_eq_zero_iff w).1 hrsv), cmdRsv_eq]
  · rw [decode_of_ne_encode ((ne_encode_iff w).2 hop), if_neg (not_not.2 ((cmdRsv_eq_zero_iff w).2 hrsv)), cmdOp_eq]
  · obtain ⟨i, hi⟩ := not_forall_not.1 (mt (ne_encode_iff w).1 hop)
    exact ⟨i, (decode_eq_ok_iff w i).2 hi⟩

/-- Settles O3: decoding undoes encoding, and the table numbers a word by its own value. -/
theorem decodeOfEncodeIsTheInstruction : Obligations.DecodeOfEncodeIsTheInstruction := by
  intro i _
  refine ⟨decode_encode i, ?_, legalCommandWord_encode i⟩
  rw [decodeTableWord_toNat, decode_encode]
  rfl

/-- Settles O4, by running the decoder on the six words. -/
theorem sampleWordsDecode : Obligations.SampleWordsDecode := by
  unfold Obligations.SampleWordsDecode
  decide

end Sys2Proof.Proofs

/-! ## How a command ends -/

namespace Sys2Proof.Machine

open Sys2Proof.Claims

variable (s : State)

/-- `finish` of a failure other than CHECKSUM_ERROR, and nothing else, is what a failed command does (R126, R127). -/
theorem failed_finish {c : ResultCode} (hok : c ≠ .ok) (hsum : c ≠ .checksumError) : Failed s (s.finish c) c 0 := by
  refine ⟨⟨rfl, rfl, rfl, rfl, fun _ => rfl, rfl, rfl, rfl⟩, ⟨rfl, rfl, rfl, ?_⟩, ?_, fun j => ?_⟩
  · rw [finish_errblk, if_neg hsum]; rfl
  · rw [finish_olen, if_neg hok]; rfl
  · rw [finish_obuf, if_neg hok, read_nil]

/-- An output that fits OBUF, then `finish(OK)`, is what a command that succeeds does (R126). -/
theorem succeeded_finish (d : Nat) {out : List Byte} {len : Nat} (hlen : out.length = len) (hle : len ≤ 2480) :
    Succeeded s (((s.drawn d).writeOutput out).finish .ok) len := by
  subst hlen
  refine ⟨⟨rfl, rfl, rfl, rfl, fun _ => rfl, rfl, rfl, rfl⟩, ⟨rfl, rfl, rfl, rfl⟩, succeeded_olen s d out hle,
    fun j hj => ?_⟩
  rw [read_succeeded_obuf, if_neg (by omega)]

/-- OBUF holds the output of a command that succeeds, at every index the output has. -/
theorem read_succeeded_of_getElem? (d : Nat) {out : List Byte} {j : Nat} {b : Byte} (h : out[j]? = some b) :
    Cells.read (((s.drawn d).writeOutput out).finish .ok).obuf j = some b := by
  obtain ⟨hj, -⟩ := List.getElem?_eq_some_iff.1 h
  rw [read_succeeded_obuf, if_pos hj, h]

end Sys2Proof.Machine

namespace Sys2Proof.Proofs

open Sys2Proof.Machine Sys2Proof.Claims

/-- Settles O7: the word in CMD decodes to no command, so the ENGINE's step is `finish(ILLEGAL_COMMAND)`. -/
theorem illegalCommandFinishes : Obligations.IllegalCommandFinishes := by
  intro s hf hn hb hne
  refine ⟨s.popTurn.finish .illegalCommand, ?_, failed_finish s.popTurn (by decide) (by decide)⟩
  rw [step_engine hf hn]
  rcases engineStep_cases s.popTurn hb with ⟨i, hi, -⟩ | ⟨_, -, he⟩
  · exact absurd (eq_encode_of_decode hi) (hne i)
  · exact he

end Sys2Proof.Proofs

/-! ## Written input -/

namespace Sys2Proof.Machine

open Sys2Proof.Claims

/-- A command reads written input as it is (R28, R76). -/
theorem input_of_written {s : State} {n : Nat} {f : Nat → Byte} (h : Written s n f) :
    s.input n = (List.range n).map f :=
  List.map_congr_left fun i hi => byteOrDraw_of_read_some (h i (List.mem_range.1 hi)) _

/-- An element of a sequence, at an index inside it. -/
theorem getElem?_eq_some_byteAt {l : List Byte} {i : Nat} (h : i < l.length) : l[i]? = some (byteAt l i) := by
  rw [byteAt, List.getD_eq_getElem?_getD, List.getElem?_eq_getElem h, Option.getD_some]

theorem byteAt_map_range (f : Nat → Byte) {n i : Nat} (h : i < n) : byteAt ((List.range n).map f) i = f i := by
  simp [byteAt, List.getD_eq_getElem?_getD, h]

/-- A segment of a sequence given by its bytes. -/
theorem seg_map_range (f : Nat → Byte) {n a b : Nat} (hb : b ≤ n) :
    seg ((List.range n).map f) a b = (List.range (b - a)).map fun o => f (a + o) := by
  apply List.ext_getElem
  · rw [length_seg, List.length_map, List.length_map, List.length_range, List.length_range]
    omega
  · intro i _ _
    simp [seg]

end Sys2Proof.Machine

/-! ## SCR -/

namespace Sys2Proof.Machine

/-- The size of a group (R82). -/
theorem groupSize_eq {g : Nat} (hg : g < 18) : groupSize g = if g = 17 then 6 else 7 := by
  simp only [groupSize, Config.nFull, Config.group, Config.lastG]
  split <;> split <;> omega

/-- A byte without its bit 7, by number (R83). -/
theorem and_0x7F_eq (b : Byte) : b &&& 0x7F#8 = BitVec.ofNat 8 (b.toNat % 128) := by
  apply BitVec.eq_of_toNat_eq
  rw [toNat_ofNat8 _ (by omega), BitVec.toNat_and]
  exact Nat.and_two_pow_sub_one_eq_mod b.toNat 7

/-- SCR of an accepted length writes the scrambled input (R90). -/
theorem exec_scr_of_length {s : State} (h125 : s.ilen.toNat % 125 = 0) (hle : s.ilen.toNat ≤ 2000) :
    exec .scr s
      = .next (((s.drawn s.ilen.toNat).writeOutput (scramble (s.input s.ilen.toNat))).finish .ok) :=
  if_pos ((scrLengthOK_iff _).2 ⟨h125, hle⟩)

section

variable (f : Nat → Byte) {n b : Nat} (hb : b < n / 125)
include hb

/-- Block `b` of a sequence given by its bytes: its length, and the byte at each offset. -/
theorem length_block : (seg ((List.range n).map f) (125 * b) (125 * b + 125)).length = 125 := by
  rw [length_seg, List.length_map, List.length_range]
  omega

theorem byteAt_block {j : Nat} (hj : j < 125) :
    byteAt (seg ((List.range n).map f) (125 * b) (125 * b + 125)) j = f (125 * b + j) := by
  rw [getD_seg _ _ _ _ (by omega), byteAt_map_range f (by omega)]

end

end Sys2Proof.Machine

namespace Sys2Proof.Proofs

open Sys2Proof.Machine Sys2Proof.Claims

/-- Settles O28: output frame `b` is the packed block `b`, whose placeholders, MSB bytes and data bytes the laws of
`packBlock` and `msbByte` give. -/
theorem scrPacksBlocksIntoFrames : Obligations.ScrPacksBlocksIntoFrames := by
  intro s f h125 hle hw
  have hexec := exec_scr_of_length h125 hle
  rw [input_of_written hw] at hexec
  generalize s.ilen.toNat = n at *
  have hlen : ((List.range n).map f).length = 125 * (n / 125) := by
    rw [List.length_map, List.length_range]
    omega
  refine ⟨_, hexec, succeeded_finish s n (length_scramble _ _ hlen) (by omega), fun b hb => ?_⟩
  have hblk := length_block f hb
  have hbyte (j : Nat) (hj : j < 125) := byteAt_block f hb hj
  have hframe (i : Nat) (hi : i < 155) := scramble_frame _ _ b i hlen hb hi
  generalize seg ((List.range n).map f) (125 * b) (125 * b + 125) = blk at *
  refine ⟨fun o ho => ?zeros, fun g hg => ?groups⟩
  case zeros =>
    exact read_succeeded_of_getElem? s n (by rw [hframe o (by omega), packBlock_zero blk hblk o ho])
  case groups =>
    have hsize := groupSize_eq hg
    have hgrp : (groupOf blk g).length = groupSize g := length_groupOf blk g hblk hg
    have h7 : (groupOf blk g).length ≤ 7 := by split at hsize <;> omega
    refine ⟨msbByte (groupOf blk g), ?_, msbByte_bit7 _ h7, fun h17 => ?_, fun k hk => ?_⟩
    · exact read_succeeded_of_getElem? s n (by rw [hframe _ (by omega), packBlock_msb blk hblk g hg])
    · exact msbByte_low _ 0 (by rw [if_pos h17] at hsize; omega)
    · rw [← hsize] at hk
      have hj : 7 * g + k < 125 := by split at hsize <;> omega
      rw [← hbyte _ hj, ← and_0x7F_eq, msbByte_bit _ h7 k (by omega), byteAt_groupOf blk g k hk]
      exact ⟨rfl, read_succeeded_of_getElem? s n (by rw [hframe _ (by omega), packBlock_data blk hblk g k hg hk])⟩

end Sys2Proof.Proofs

/-! ## DTRQ and WRPG -/

namespace Sys2Proof.Machine

/-- A checksum byte is below 128 (R100). -/
theorem csum7_lt (l : List Byte) : (csum7 l).toNat < 128 := by
  rw [csum7_toNat]
  omega

/-- A checksum byte makes the sum 0 modulo 128 (R100). -/
theorem byteSum_add_csum7 (l : List Byte) : (byteSum l + (csum7 l).toNat) % 128 = 0 := by
  rw [csum7_toNat]
  omega

section

variable {v : Nat} (hv : v ≤ 0x3FFF)
include hv

/-- The two digits of a 14-bit number (R72). -/
theorem split14_eq : split14 v = [BitVec.ofNat 8 (v / 128), BitVec.ofNat 8 (v % 128)] := by
  rw [split14, Nat.mod_eq_of_lt (by omega : v / 128 < 128)]

/-- The sum of the two digits of a 14-bit number. -/
theorem byteSum_split14 : byteSum (split14 v) = v / 128 + v % 128 := by
  rw [split14_eq hv, byteSum_cons, byteSum_cons, byteSum_nil, toNat_ofNat8 _ (by omega), toNat_ofNat8 _ (by omega)]
  omega

end

/-- A Data Request begins with its header (R70). -/
theorem dataRequest_header (p c : Nat) {j : Nat} (hj : j < Config.rqHdrLen.val) :
    (dataRequest p c)[j]? = some (Config.rqHdr ⟨j, hj⟩) := by
  rw [dataRequest, List.append_assoc, List.append_assoc, List.getElem?_append_left (by simpa using hj),
    rqHdrBytes_getElem? j hj]

/-- A Data Request goes on with the four digits, the checksum and the terminator (R70). -/
theorem dataRequest_tail (p c i : Nat) :
    (dataRequest p c)[Config.rqHdrLen.val + i]?
      = (split14 p ++ split14 (c - 1) ++ [csum7 (requestFields p c), Config.eox])[i]? := by
  rw [dataRequest, List.append_assoc, List.append_assoc, ← length_rqHdrBytes, List.getElem?_append_right (by omega),
    Nat.add_sub_cancel_left]
  rfl

/-- A byte of the Write Page header (R69). -/
theorem byteAt_wrHdrBytes {j : Nat} (hj : j < 8) : byteAt Config.wrHdrBytes j = Config.wrHdr ⟨j, hj⟩ := by
  rw [byteAt, List.getD_eq_getElem?_getD, wrHdrBytes_getElem? j hj, Option.getD_some]

/-- The Write Page frame, as what each index of it holds (R111). -/
theorem writePage_getElem? (l : List Byte) (p : Nat) (hl : l.length = 155) {j : Nat} (hj : j < 155) :
    (writePage l p)[j]? = some (if j < 8 then byteAt Config.wrHdrBytes j else if j < 10 then byteAt (split14 p) (j - 8)
      else if j < 153 then byteAt l j else if j = 153 then csum7 (split14 p ++ seg l 10 153) else Config.eox) := by
  rw [getElem?_eq_some_byteAt (by rwa [length_writePage l p hl]), writePage_bytes l p hl j hj]

/-- What a range rule says (R105, R110). -/
theorem pageTooLarge_iff (p : Nat) : pageTooLarge p = true ↔ p > 0x3FFF := by simp [pageTooLarge]

theorem requestOutOfRange_iff (p c : Nat) :
    (pageTooLarge p || countOutOfRange c) = true ↔ p > 0x3FFF ∨ c = 0 ∨ c > 0x4000 := by
  simp [pageTooLarge, countOutOfRange]

/-- DTRQ with PAGE and COUNT in range writes the Data Request (R107). -/
theorem exec_dtrq_of_range {s : State} (hp : s.page.toNat ≤ 0x3FFF) (h1 : 1 ≤ s.count.toNat)
    (hc : s.count.toNat ≤ 0x4000) :
    exec .dtrq s = .next (((s.drawn 0).writeOutput (dataRequest s.page.toNat s.count.toNat)).finish .ok) :=
  if_neg (mt (requestOutOfRange_iff _ _).1 (by omega))

/-- WRPG with one frame and PAGE in range writes the Write Page frame (R111). -/
theorem exec_wrpg_of_range {s : State} (hn : s.ilen.toNat = 155) (hp : s.page.toNat ≤ 0x3FFF) :
    exec .wrpg s = .next (((s.drawn 155).writeOutput (writePage (s.input 155) s.page.toNat)).finish .ok) :=
  (if_neg (not_not.2 hn)).trans (if_neg (mt (pageTooLarge_iff _).1 (by omega)))

end Sys2Proof.Machine

namespace Sys2Proof.Proofs

open Sys2Proof.Machine Sys2Proof.Claims

/-- Settles O36: the header, then the two fields as digits, their checksum and the terminator. -/
theorem dtrqFramesTheRequest : Obligations.DtrqFramesTheRequest := by
  intro s hp h1 hc
  have hexec := exec_dtrq_of_range hp h1 hc
  generalize s.page.toNat = p at *
  generalize s.count.toNat = c at *
  have hlt : c - 1 ≤ 0x3FFF := by omega
  have hlen : Config.rqHdrLen.val + 6 ≤ 2480 := by have := Config.rqHdrLen.isLt; omega
  have hsum := byteSum_add_csum7 (requestFields p c)
  rw [requestFields, byteSum_append, byteSum_split14 hp, byteSum_split14 hlt, ← requestFields] at hsum
  have htail (i : Nat) := dataRequest_tail p c i
  rw [split14_eq hp, split14_eq hlt] at htail
  exact ⟨_, csum7 (requestFields p c), hexec, succeeded_finish s 0 (length_dataRequest p c) hlen,
    fun j hj => read_succeeded_of_getElem? s 0 (dataRequest_header p c hj),
    read_succeeded_of_getElem? s 0 (htail 0), read_succeeded_of_getElem? s 0 (htail 1),
    read_succeeded_of_getElem? s 0 (htail 2), read_succeeded_of_getElem? s 0 (htail 3),
    read_succeeded_of_getElem? s 0 (htail 4), csum7_lt _, by omega, read_succeeded_of_getElem? s 0 (htail 5)⟩

/-- Settles O38: the frame holds its input but for the header, the page digits, the checksum and the terminator. -/
theorem wrpgFramesThePage : Obligations.WrpgFramesThePage := by
  intro s f hn hp hw
  have hexec := exec_wrpg_of_range hn hp
  rw [input_of_written hw] at hexec
  generalize s.page.toNat = p at *
  have hlen : ((List.range 155).map f).length = 155 := by rw [List.length_map, List.length_range]
  have hbyte (j : Nat) (hj : j < 155) := read_succeeded_of_getElem? s 155 (writePage_getElem? _ p hlen hj)
  have hsum := writePage_sum ((List.range 155).map f) p hp
  have hclt := csum7_lt (split14 p ++ seg ((List.range 155).map f) 10 153)
  generalize csum7 (split14 p ++ seg ((List.range 155).map f) 10 153) = c at hbyte hsum hclt
  rw [split14_eq hp] at hbyte
  rw [seg_map_range f (by decide), byteSum, List.map_map] at hsum
  refine ⟨_, c, hexec, succeeded_finish s 155 (length_writePage _ p hlen) (by decide), fun j hj => ?header,
    hbyte 8 (by decide), hbyte 9 (by decide), fun j h10 h153 => ?payload, hbyte 153 (by decide), hclt, hsum,
    hbyte 154 (by decide)⟩
  case header => rw [hbyte j (by omega), if_pos hj, byteAt_wrHdrBytes hj]
  case payload =>
    rw [hbyte j (by omega), if_neg (by omega), if_neg (by omega), if_pos h153, byteAt_map_range f (by omega)]

end Sys2Proof.Proofs

/-! ## IF and CHECK -/

namespace Sys2Proof.Machine

variable (h : HostAgent) (x : HostVar) (pc : Nat)

/-- IF with a label the script has: the HOST goes on after it, or at the label (R77). -/
theorem branch_of_find? (m : Word) {l : Label} {k : Nat} (hl : Script.find? h.script l = some k) :
    h.branch x m l pc = { h with pc := if h.var x &&& m = 0 then pc else k } := by
  rw [HostAgent.branch, hl]
  by_cases hm : h.var x &&& m = 0
  · rw [if_neg (not_not.2 hm), if_pos hm]
  · rw [if_pos hm, if_neg hm]

end Sys2Proof.Machine

namespace Sys2Proof.Proofs

open Sys2Proof.Machine Sys2Proof.Claims

/-- Settles O25: both statements change the HOST alone, its line or, where a CHECK fails, its mark of failure. -/
theorem branchAndCheckFollowTheScript : Obligations.BranchAndCheckFollowTheScript := by
  intro s x m v l pc k
  refine ⟨fun ⟨hf, hn, hs⟩ hl => ?_, fun ⟨hf, hn, hs⟩ hv => ?_, fun ⟨hf, hn, hs⟩ hv => ?_⟩
  all_goals rw [step_host s _ pc hf hn hs, hostStmt, popTurn_host]
  · rw [branch_of_find? _ _ _ m hl]
    rfl
  · rw [HostAgent.check, if_pos hv]
    rfl
  · rw [HostAgent.check, if_neg hv]
    exact ⟨_, rfl, Bool.or_true _,
      rfl, rfl, rfl, rfl, rfl, rfl, rfl, rfl, rfl, fun _ => rfl, fun _ => rfl⟩

end Sys2Proof.Proofs
end

section
/-! PROOFS. The family 40_packer.md: the length rules, what SCR and USCR write byte by byte, the first failing frame, and
the laws of Scramble and Unscramble. -/

/-! ## UnpackByte -/

namespace Sys2Proof.Machine

variable (m d : Byte) {k : Nat} (hk : k < 7)
include hk

/-- The shift of R85 brings bit 6−k of the MSB byte to bit 7, whether or not it is done in 8 bits (log 7). -/
theorem testBit_msb_shift : (m.toNat * 2 ^ (k + 1)).testBit 7 = m.getLsbD (6 - k) := by
  rw [Nat.testBit_mul_two_pow, decide_eq_true (by omega : k + 1 ≤ 7), Bool.true_and, BitVec.testBit_toNat]
  congr 1
  omega

/-- An unpacked byte by number: bit 6−k of the MSB byte joins the data byte as its bit 7 (R85). -/
theorem unpackByte_toNat :
    (unpackByte m d k).toNat = d.toNat ||| if m.getLsbD (6 - k) then 0x80 else 0 := by
  have hmask : (m.toNat * 2 ^ (k + 1)) % 2 ^ 8 &&& 2 ^ 7 = if m.getLsbD (6 - k) then 0x80 else 0 := by
    rw [Nat.and_two_pow, Nat.testBit_mod_two_pow, testBit_msb_shift m hk]
    cases m.getLsbD (6 - k) <;> rfl
  rw [unpackByte, BitVec.toNat_or, BitVec.toNat_and, BitVec.toNat_shiftLeft, Nat.shiftLeft_eq, ← hmask]
  rfl

/-- An unpacked byte by number, with the shift over unbounded integers (R85). -/
theorem unpackByte_toNat_unbounded :
    (unpackByte m d k).toNat = d.toNat ||| ((m.toNat * 2 ^ (k + 1)) &&& 0x80) := by
  rw [unpackByte_toNat m d hk, show 0x80 = 2 ^ 7 from rfl, Nat.and_two_pow, testBit_msb_shift m hk]
  cases m.getLsbD (6 - k) <;> rfl

/-- An unpacked byte bit by bit: bit 7 takes in the MSB byte's bit 6−k, and the others are the data byte's. -/
theorem unpackByte_getLsbD (i : Nat) :
    (unpackByte m d k).getLsbD i = (d.getLsbD i || (decide (i = 7) && m.getLsbD (6 - k))) := by
  rw [← BitVec.testBit_toNat, unpackByte_toNat m d hk, Nat.testBit_or, BitVec.testBit_toNat]
  congr 1
  cases m.getLsbD (6 - k)
  · rw [if_neg Bool.false_ne_true, Nat.zero_testBit, Bool.and_false]
  · rw [if_pos rfl, show 0x80 = 2 ^ 7 from rfl, Nat.testBit_two_pow, Bool.and_true]
    exact decide_eq_decide.2 eq_comm

end Sys2Proof.Machine

namespace Sys2Proof.Proofs

open Sys2Proof.Machine

/-- Settles O30: the mask keeps bit 7 of the shifted MSB byte alone, and that is its bit 6−k. -/
theorem unpackByteBits : Obligations.UnpackByteBits := by
  intro m d k hk
  refine ⟨unpackByte_toNat_unbounded m d hk, ?_, fun i hi => ?_⟩
  · rw [unpackByte_getLsbD m d hk, decide_eq_true rfl, Bool.true_and]
  · rw [unpackByte_getLsbD m d hk, decide_eq_false (by omega), Bool.false_and, Bool.or_false]

end Sys2Proof.Proofs

/-! ## Segments and frames -/

namespace Sys2Proof.Machine

open Sys2Proof.Claims

/-- What a segment holds at each index inside it. -/
theorem getElem?_seg (l : List Byte) {a b i : Nat} (hi : i < b - a) : (seg l a b)[i]? = l[a + i]? := by
  rw [seg, List.getElem?_take_of_lt hi, List.getElem?_drop]

/-- A segment of a segment. -/
theorem seg_seg (l : List Byte) {a b c d : Nat} (hd : d ≤ b - a) : seg (seg l a b) c d = seg l (a + c) (a + d) := by
  rw [seg, seg, seg, List.drop_take, List.take_take, List.drop_drop]
  congr 1
  omega

/-- A sequence of zeros sums to 0. -/
theorem byteSum_eq_zero {l : List Byte} (h : ∀ b ∈ l, b = 0#8) : byteSum l = 0 := by
  rw [List.eq_replicate_of_mem h, byteSum, List.map_replicate, List.sum_replicate]
  rfl

/-- Every whole frame of a sequence passes the check (R88). -/
theorem firstBad_parts_eq_none_iff (l : List Byte) :
    firstBad (parts 155 l) = none ↔ ∀ b, b < l.length / 155 → frameOK (seg l (155 * b) (155 * b + 155)) = true := by
  rw [firstBad_eq_none]
  simp only [parts, List.forall_mem_map, List.mem_range]

/-- Frame `b` is the first of a sequence's whole frames that fails the check (R88). -/
theorem firstBad_parts_eq_some_iff (l : List Byte) (b : Nat) :
    firstBad (parts 155 l) = some b ↔ b < l.length / 155 ∧ frameOK (seg l (155 * b) (155 * b + 155)) = false
      ∧ ∀ c, c < b → frameOK (seg l (155 * c) (155 * c + 155)) = true := by
  rw [firstBad_eq_some]
  simp only [parts, List.length_map, List.length_range, List.getElem_map, List.getElem_range, exists_prop]

/-- Unscramble of frames that all pass the check unpacks each (R88). -/
theorem unscramble_of_firstBad_none {l : List Byte} (h : firstBad (parts 155 l) = none) :
    unscramble l = .ok ((parts 155 l).flatMap unpackFrame) := by
  simp only [unscramble, Config.frame, h]

/-- Unscramble of frames of which one fails the check is `Bad` of the first such (R88). -/
theorem unscramble_of_firstBad_some {l : List Byte} {b : Nat} (h : firstBad (parts 155 l) = some b) :
    unscramble l = .bad b := by
  simp only [unscramble, Config.frame, h]

/-- Byte `j` of unpacked frame `b` (R86, R88). -/
theorem unpacked_getElem? (l : List Byte) {b j : Nat} (hb : b < l.length / 155) (hj : j < 125) :
    ((parts 155 l).flatMap unpackFrame)[125 * b + j]? = (unpackFrame (seg l (155 * b) (155 * b + 155)))[j]? :=
  byteAt_flatMap unpackFrame 125 _ (fun fr _ => length_unpackFrame fr) b _ (getElem?_parts 155 l b hb) j hj

section

variable (f : Nat → Byte) {n b : Nat} (hb : b < n / 155)
include hb

/-- Frame `b` of a sequence given by its bytes. -/
theorem seg_frame :
    seg ((List.range n).map f) (155 * b) (155 * b + 155) = (List.range 155).map fun o => f (155 * b + o) := by
  rw [seg_map_range f (by omega), Nat.add_sub_cancel_left]

/-- The check of frame `b` of a sequence given by its bytes (R114). -/
theorem frameOK_frame_iff :
    frameOK (seg ((List.range n).map f) (155 * b) (155 * b + 155)) = true ↔ FramePasses f b := by
  rw [frameOK_iff, seg_frame f hb, seg_map_range _ (by decide), byteSum, List.map_map, FramePasses, frameSum]
  simp only [Function.comp_def, Nat.add_assoc]

end

end Sys2Proof.Machine

/-! ## How the packer's commands end -/

namespace Sys2Proof.Machine

open Sys2Proof.Claims

/-- CHECKSUM_ERROR with the block number in ERRBLK is what a failed check does (R93, R116, R126). -/
theorem failed_checksum (s : State) (n : Nat) {b : Nat} (hb : b ≤ 15) :
    Failed s (((s.drawn n).setErrblk b).finish .checksumError) .checksumError b :=
  ⟨⟨rfl, rfl, rfl, rfl, fun _ => rfl, rfl, rfl, rfl⟩, ⟨rfl, rfl, rfl, Nat.mod_eq_of_lt (by omega)⟩, rfl, fun _ => rfl⟩

/-- OLEN cleared, then `finish(OK)`, is a success with no output (R116, R126). -/
theorem succeeded_clearOlen (s : State) (n : Nat) : Succeeded s ((s.drawn n).clearOlen.finish .ok) 0 :=
  ⟨⟨rfl, rfl, rfl, rfl, fun _ => rfl, rfl, rfl, rfl⟩, ⟨rfl, rfl, rfl, rfl⟩, rfl, fun _ _ => rfl⟩

/-- SCR of any other length does nothing but fail (R80, R90). -/
theorem exec_scr_of_not_length {s : State} (hn : ¬(s.ilen.toNat % 125 = 0 ∧ s.ilen.toNat ≤ 2000)) :
    exec .scr s = .next (s.finish .lengthError) :=
  if_neg (mt (scrLengthOK_iff _).1 hn)

section

variable {s : State} (hn : ¬(s.ilen.toNat % 155 = 0 ∧ s.ilen.toNat ≤ 2480))
include hn

/-- USCR and CHKV of a length that is not accepted do nothing but fail (R81, R93, R116). -/
theorem exec_uscr_of_not_length : exec .uscr s = .next (s.finish .lengthError) :=
  if_neg (mt (frameLengthOK_iff _).1 hn)

theorem exec_chkv_of_not_length : exec .chkv s = .next (s.finish .lengthError) :=
  if_neg (mt (frameLengthOK_iff _).1 hn)

end

section

variable {s : State} (hn : s.ilen.toNat % 155 = 0 ∧ s.ilen.toNat ≤ 2480)
include hn

/-- USCR and CHKV of an accepted length, by what the check of the input's frames finds (R93, R116). -/
theorem exec_uscr_of_firstBad_none (h : firstBad (parts 155 (s.input s.ilen.toNat)) = none) :
    exec .uscr s = .next (((s.drawn s.ilen.toNat).writeOutput
      ((parts 155 (s.input s.ilen.toNat)).flatMap unpackFrame)).finish .ok) := by
  simp only [exec, execUscr, (frameLengthOK_iff _).2 hn, unscramble_of_firstBad_none h, if_true]

theorem exec_uscr_of_firstBad_some {b : Nat} (h : firstBad (parts 155 (s.input s.ilen.toNat)) = some b) :
    exec .uscr s = .next (((s.drawn s.ilen.toNat).setErrblk b).finish .checksumError) := by
  simp only [exec, execUscr, (frameLengthOK_iff _).2 hn, unscramble_of_firstBad_some h, if_true]

theorem exec_chkv_of_firstBad_none (h : firstBad (parts 155 (s.input s.ilen.toNat)) = none) :
    exec .chkv s = .next ((s.drawn s.ilen.toNat).clearOlen.finish .ok) := by
  simp only [exec, execChkv, (frameLengthOK_iff _).2 hn, Config.frame, h, if_true]

theorem exec_chkv_of_firstBad_some {b : Nat} (h : firstBad (parts 155 (s.input s.ilen.toNat)) = some b) :
    exec .chkv s = .next (((s.drawn s.ilen.toNat).setErrblk b).finish .checksumError) := by
  simp only [exec, execChkv, (frameLengthOK_iff _).2 hn, Config.frame, h, if_true]

end

end Sys2Proof.Machine

namespace Sys2Proof.Proofs

open Sys2Proof.Machine Sys2Proof.Claims

/-- Settles O27: the two branches of SCR, by its length rule. -/
theorem scrLengthRule : Obligations.ScrLengthRule := by
  intro s
  refine ⟨fun ⟨h125, hle⟩ => ?_, fun hn =>
    ⟨_, exec_scr_of_not_length hn, failed_finish s (by decide) (by decide)⟩⟩
  have hlen : (scramble (s.input s.ilen.toNat)).length = 155 * (s.ilen.toNat / 125) :=
    length_scramble _ _ (by rw [length_input]; omega)
  obtain ⟨-, ⟨-, -, hok, -⟩, holen, -⟩ := succeeded_finish s s.ilen.toNat hlen (by omega)
  exact ⟨_, exec_scr_of_length h125 hle, hok, holen⟩

/-- Settles O31: whatever the check of accepted frames finds, the result is not LENGTH_ERROR, and with ILEN = 0 there is
no frame to fail. -/
theorem frameLengthRule : Obligations.FrameLengthRule := by
  intro s
  refine ⟨fun hn => ?refused, fun hn => ?accepted, fun h0 => ?empty⟩
  case refused =>
    have hfail := failed_finish s (c := .lengthError) (by decide) (by decide)
    exact ⟨_, _, exec_uscr_of_not_length hn, hfail, exec_chkv_of_not_length hn, hfail⟩
  case accepted =>
    cases h : firstBad (parts 155 (s.input s.ilen.toNat)) with
    | none =>
      exact ⟨_, _, exec_uscr_of_firstBad_none hn h, ResultCode.noConfusion, exec_chkv_of_firstBad_none hn h,
        ResultCode.noConfusion⟩
    | some b =>
      exact ⟨_, _, exec_uscr_of_firstBad_some hn h, ResultCode.noConfusion, exec_chkv_of_firstBad_some hn h,
        ResultCode.noConfusion⟩
  case empty =>
    have hn : s.ilen.toNat % 155 = 0 ∧ s.ilen.toNat ≤ 2480 := by omega
    have hnone : firstBad (parts 155 (s.input s.ilen.toNat)) = none := by
      rw [firstBad_parts_eq_none_iff, length_input, h0]
      exact fun b hb => absurd hb (Nat.not_lt_zero b)
    have hlen : ((parts 155 (s.input s.ilen.toNat)).flatMap unpackFrame).length = 0 := by
      rw [length_unpacked, length_input, h0]
    exact ⟨_, _, exec_uscr_of_firstBad_none hn hnone, succeeded_finish s _ hlen (by decide),
      exec_chkv_of_firstBad_none hn hnone, succeeded_clearOlen s _⟩

end Sys2Proof.Proofs

/-! ## What SCR and USCR write -/

namespace Sys2Proof.Machine

/-- Every byte of a scrambled sequence is below 0x80 (R87, R94). -/
theorem scramble_lt (l : List Byte) : ∀ b ∈ scramble l, b.toNat < 0x80 := by
  intro b hb
  obtain ⟨blk, hblk, hb⟩ := List.mem_flatMap.1 hb
  have hlen : blk.length = 125 := length_of_mem_parts 125 l blk (by decide) hblk
  refine packBlock_lt blk (fun g hg => ?_) b hb
  rw [length_groupOf blk g hlen hg, groupSize_eq hg]
  split <;> decide

end Sys2Proof.Machine

namespace Sys2Proof.Proofs

open Sys2Proof.Machine Sys2Proof.Claims

/-- Settles O29: an SCR that ends with OK has written a scrambled sequence, all of whose bytes are below 0x80. -/
theorem scrOutputIsSevenBit : Obligations.ScrOutputIsSevenBit := by
  intro s t ht hok j hj
  by_cases hn : s.ilen.toNat % 125 = 0 ∧ s.ilen.toNat ≤ 2000
  · obtain ⟨h125, hle⟩ := hn
    rw [exec_scr_of_length h125 hle] at ht
    injection ht with ht
    subst ht
    have hlen := length_scramble (s.input s.ilen.toNat) (s.ilen.toNat / 125) (by rw [length_input]; omega)
    rw [succeeded_olen s _ _ (by omega)] at hj
    exact ⟨_, read_succeeded_of_getElem? s _ (List.getElem?_eq_getElem hj), scramble_lt _ _ (List.getElem_mem hj)⟩
  · rw [exec_scr_of_not_length hn] at ht
    injection ht with ht
    subst ht
    cases hok

/-- Settles O32: every frame of the input passes, and each output byte is the unpacked byte of its group and position. -/
theorem uscrUnpacksGoodFrames : Obligations.UscrUnpacksGoodFrames := by
  intro s f h155 hle hw hpass
  have hlen : (s.input s.ilen.toNat).length = s.ilen.toNat := length_input _ _
  have hnone : firstBad (parts 155 (s.input s.ilen.toNat)) = none := by
    rw [firstBad_parts_eq_none_iff, hlen, input_of_written hw]
    exact fun b hb => (frameOK_frame_iff f hb).2 (hpass b hb)
  have hout := length_unpacked (s.input s.ilen.toNat)
  rw [hlen] at hout
  refine ⟨_, exec_uscr_of_firstBad_none ⟨h155, hle⟩ hnone, succeeded_finish s _ hout (by omega),
    fun b hb g k hg hk => read_succeeded_of_getElem? s _ ?_⟩
  have hk7 : k < 7 := by split at hk <;> omega
  have hj : 7 * g + k < 125 := by split at hk <;> omega
  have hdiv : (7 * g + k) / 7 = g := by omega
  have hmod : (7 * g + k) % 7 = k := by omega
  rw [unpacked_getElem? _ (by rwa [hlen]) hj, input_of_written hw, seg_frame f hb, unpackFrame_getElem? _ _ hj, hdiv,
    hmod, byteAt_map_range _ (by omega), byteAt_map_range _ (by omega), ← unpackByte_toNat _ _ hk7, BitVec.ofNat_toNat,
    BitVec.setWidth_eq]

/-- Settles O33: frame `b` is the first that fails, so it is the one USCR reports. -/
theorem uscrReportsTheFirstBadFrame : Obligations.UscrReportsTheFirstBadFrame := by
  intro s f b h155 hle hw hb hbad hpass
  have hsome : firstBad (parts 155 (s.input s.ilen.toNat)) = some b := by
    rw [firstBad_parts_eq_some_iff, length_input, input_of_written hw]
    refine ⟨hb, Bool.eq_false_iff.2 (mt (frameOK_frame_iff f hb).1 hbad), fun c hc => ?_⟩
    exact (frameOK_frame_iff f (by omega)).2 (hpass c hc)
  exact ⟨_, exec_uscr_of_firstBad_some ⟨h155, hle⟩ hsome, failed_checksum s _ (by omega)⟩

end Sys2Proof.Proofs

/-! ## Scramble and Unscramble -/

namespace Sys2Proof.Machine

/-- Frames that carry Scramble(s) at their payloads unpack to `s`, whatever else they hold (R89). -/
theorem unpacked_of_payloads {n : Nat} {s t : List Byte} (hs : s.length = 125 * n) (ht : t.length = 155 * n)
    (hp : ∀ b o, b < n → 10 ≤ o → o < 153 → t[155 * b + o]? = (scramble s)[155 * b + o]?) :
    (parts 155 t).flatMap unpackFrame = s := by
  have hframes : (parts 155 t).map unpackFrame = parts 125 s := by
    rw [parts, parts, hs, ht, Nat.mul_div_cancel_left n (by decide), Nat.mul_div_cancel_left n (by decide),
      List.map_map]
    refine List.map_congr_left fun b hb => ?_
    have hb : b < n := List.mem_range.1 hb
    refine unpackFrame_of_payload _ _ (by rw [length_seg]; omega) fun o h10 h153 => ?_
    rw [getElem?_seg t (by omega), hp b o hb h10 h153, scramble_frame s n b o hs hb (by omega)]
  rw [List.flatMap_def, hframes, flatten_parts 125 n s hs]

/-- A frame of Scramble(s) passes the check exactly when its payload sums to 0: its other bytes are 0 (R66, R96). -/
theorem frameOK_scramble_iff {n b : Nat} {s : List Byte} (hs : s.length = 125 * n) (hb : b < n) :
    frameOK (seg (scramble s) (155 * b) (155 * b + 155)) = true
      ↔ byteSum (seg (scramble s) (155 * b + 10) (155 * b + 153)) % 128 = 0 := by
  have hblk : (seg s (125 * b) (125 * b + 125)).length = 125 := by rw [length_seg]; omega
  have hzero (o : Nat) (ho : o < 10 ∨ o = 153 ∨ o = 154) : (scramble s)[155 * b + o]? = some 0#8 := by
    rw [scramble_frame s n b o hs hb (by omega), packBlock_zero _ hblk o ho]
  have hseg (c d : Nat) (h : ∀ o, c ≤ o → o < d → o < 10 ∨ o = 153 ∨ o = 154) :
      byteSum (seg (scramble s) (155 * b + c) (155 * b + d)) = 0 := by
    refine byteSum_eq_zero fun x hx => ?_
    obtain ⟨i, hi, rfl⟩ := List.mem_iff_getElem.1 hx
    rw [length_seg] at hi
    rw [← Option.some_inj, ← List.getElem?_eq_getElem, getElem?_seg _ (by omega), Nat.add_assoc]
    exact hzero _ (h _ (by omega) (by omega))
  rw [frameOK_iff, seg_seg _ (by omega), ← seg_append_seg _ _ (155 * b + 10) _ (by omega) (by omega),
    ← seg_append_seg _ (155 * b + 10) (155 * b + 153) _ (by omega) (by omega), byteSum_append, byteSum_append,
    hseg 8 10 (by omega), hseg 153 154 (by omega), Nat.zero_add, Nat.add_zero]

end Sys2Proof.Machine

namespace Sys2Proof.Proofs

open Sys2Proof.Machine

/-- Settles O44: every frame passes the check, and each unpacks to its block. -/
theorem unscrambleUndoesScramble : Obligations.UnscrambleUndoesScramble := by
  intro n s t hs ht hp hok
  have hnone : firstBad (parts 155 t) = none := by
    rw [firstBad_parts_eq_none_iff, ht, Nat.mul_div_cancel_left n (by decide)]
    exact hok
  rw [unscramble_of_firstBad_none hnone, unpacked_of_payloads hs ht hp]

/-- Settles O45: a raw frame passes the check exactly when its payload sums to 0, so the first half is O44 of
Scramble(s) itself, and in the second frame `b` is the first that fails. -/
theorem rawScrambleFailsUnlessPayloadSumsVanish : Obligations.RawScrambleFailsUnlessPayloadSumsVanish := by
  intro n s hs
  have hlen := length_scramble s n hs
  refine ⟨fun hsum => ?vanish, fun b hb hbad hsum => unscramble_of_firstBad_some ?bad⟩
  case vanish =>
    exact unscrambleUndoesScramble n s (scramble s) hs hlen (fun _ _ _ _ _ => rfl)
      fun b hb => (frameOK_scramble_iff hs hb).2 (hsum b hb)
  case bad =>
    rw [firstBad_parts_eq_some_iff, hlen, Nat.mul_div_cancel_left n (by decide)]
    exact ⟨hb, Bool.eq_false_iff.2 (mt (frameOK_scramble_iff hs hb).1 hbad),
      fun c hc => (frameOK_scramble_iff hs (by omega)).2 (hsum c hc)⟩

end Sys2Proof.Proofs
end

section
/-! PROOFS. The family 41_framer.md: the messages of the framer and their errors, the laws of Csum7 and of the frame
check, and CHKV beside USCR and WRPG. -/

/-! ## How the framer's commands end -/

namespace Sys2Proof.Machine

/-- IDRQ writes the Identify Request, from every state (R103). -/
theorem exec_idrq (s : State) : exec .idrq s = .next (((s.drawn 0).writeOutput identifyRequest).finish .ok) := rfl

/-- DTRQ with PAGE or COUNT out of range does nothing but fail (R105). -/
theorem exec_dtrq_of_not_range {s : State} (h : s.page.toNat > 0x3FFF ∨ s.count.toNat = 0 ∨ s.count.toNat > 0x4000) :
    exec .dtrq s = .next (s.finish .operandRange) :=
  if_pos ((requestOutOfRange_iff _ _).2 h)

/-- WRPG of anything but one frame does nothing but fail, whatever PAGE holds (R109). -/
theorem exec_wrpg_of_not_length {s : State} (hn : s.ilen.toNat ≠ 155) :
    exec .wrpg s = .next (s.finish .invalidPageSize) :=
  if_pos hn

/-- WRPG of one frame with PAGE out of range does nothing but fail (R110). -/
theorem exec_wrpg_of_not_range {s : State} (hn : s.ilen.toNat = 155) (hp : s.page.toNat > 0x3FFF) :
    exec .wrpg s = .next (s.finish .operandRange) :=
  (if_neg (not_not.2 hn)).trans (if_pos ((pageTooLarge_iff _).2 hp))

/-- A WRPG that ends with OK had one frame and PAGE in range (R109, R110). -/
theorem wrpg_operands_of_ok {s t : State} (h : exec .wrpg s = .next t) (hok : t.result = .ok) :
    s.ilen.toNat = 155 ∧ s.page.toNat ≤ 0x3FFF := by
  by_cases hn : s.ilen.toNat = 155
  · refine ⟨hn, Nat.le_of_not_gt fun hp => ?_⟩
    rw [exec_wrpg_of_not_range hn hp] at h
    cases h
    cases hok
  · rw [exec_wrpg_of_not_length hn] at h
    cases h
    cases hok

end Sys2Proof.Machine

namespace Sys2Proof.Proofs

open Sys2Proof.Machine Sys2Proof.Claims

/-- Settles O35: the output is the Identify Request, which is ID_REQ byte by byte. -/
theorem idrqWritesTheFiveBytes : Obligations.IdrqWritesTheFiveBytes :=
  ⟨decode_encode .idrq, fun s => ⟨_, exec_idrq s, succeeded_finish s 0 length_identifyRequest (by decide),
    fun j h => read_succeeded_of_getElem? s 0 (idReqBytes_getElem? j h)⟩⟩

/-- Settles O37: the branch of DTRQ that its range rule takes. -/
theorem dtrqRangeRule : Obligations.DtrqRangeRule :=
  fun s h => ⟨_, exec_dtrq_of_not_range h, failed_finish s (by decide) (by decide)⟩

/-- Settles O39: the two failing branches of WRPG, the size rule before the range rule. -/
theorem wrpgErrorsAndTheirOrder : Obligations.WrpgErrorsAndTheirOrder :=
  fun s => ⟨fun hn => ⟨_, exec_wrpg_of_not_length hn, failed_finish s (by decide) (by decide)⟩,
    fun hn hp => ⟨_, exec_wrpg_of_not_range hn hp, failed_finish s (by decide) (by decide)⟩⟩

end Sys2Proof.Proofs

/-! ## Csum7 and the frame check -/

namespace Sys2Proof.Machine

/-- A sum modulo 128 is that of the low 7 bits of each byte. -/
theorem byteSum_mod (l : List Byte) : byteSum l % 128 = (l.map fun b => b.toNat % 128).sum % 128 := by
  rw [byteSum, List.sum_nat_mod, List.map_map]
  rfl

/-- Csum7 depends on the sum modulo 128 alone (R100). -/
theorem csum7_congr {l l' : List Byte} (h : byteSum l' % 128 = byteSum l % 128) : csum7 l' = csum7 l := by
  rw [csum7, csum7, h]

/-- Changing one byte changes the sum by the difference of the two bytes. -/
theorem byteSum_set {l : List Byte} {i : Nat} (hi : i < l.length) (b : Byte) :
    byteSum (l.set i b) + (byteAt l i).toNat = byteSum l + b.toNat := by
  induction l generalizing i with
  | nil => exact absurd hi (Nat.not_lt_zero i)
  | cons x xs ih =>
    cases i with
    | zero =>
      rw [List.set_cons_zero, byteSum_cons, byteSum_cons, byteAt, List.getD_cons_zero]
      omega
    | succ i =>
      have := ih (Nat.lt_of_succ_lt_succ hi)
      rw [List.set_cons_succ, byteSum_cons, byteSum_cons, byteAt, List.getD_cons_succ, ← byteAt]
      omega

/-- A byte changed outside a segment does not change the segment. -/
theorem seg_set_of_not_mem (l : List Byte) {a c i : Nat} (b : Byte) (hi : i < a ∨ c ≤ i) :
    seg (l.set i b) a c = seg l a c := by
  rcases hi with hi | hi
  · rw [seg, List.drop_set_of_lt hi, seg]
  · rw [seg, ← List.drop_take, List.take_set_of_le hi, List.drop_take, seg]

/-- A byte changed inside a segment is changed in the segment. -/
theorem seg_set_of_mem (l : List Byte) {a c i : Nat} (b : Byte) (ha : a ≤ i) :
    seg (l.set i b) a c = (seg l a c).set (i - a) b := by
  rw [seg, List.drop_set, if_neg (by omega), List.take_set, seg]

end Sys2Proof.Machine

namespace Sys2Proof.Proofs

open Sys2Proof.Machine

/-- Settles O40: Csum7 is what is missing from the sum modulo 128 to 0, and the sum modulo 128 is that of the low bits. -/
theorem csumLaws : Obligations.CsumLaws := by
  intro s
  have hlt := csum7_lt s
  have hsum := byteSum_add_csum7 s
  refine ⟨by omega, hsum, by omega, fun s' h => csum7_congr ?_⟩
  rw [byteSum_mod, h, ← byteSum_mod]

/-- Settles O41: the check reads the sum of bytes 8..153 alone, and a byte changed there moves it by the difference. -/
theorem checkDetectsLowBitChanges : Obligations.CheckDetectsLowBitChanges := by
  intro fr hlen hok
  have hgood := (frameOK_iff fr).1 hok
  refine ⟨fun fr' _ => ?sums, fun o b h8 h153 => ?inside, fun o b ho => ?outside⟩
  case sums =>
    rw [frameOK_iff]
    omega
  case inside =>
    have hset := byteSum_set (l := seg fr 8 154) (i := o - 8) (by rw [length_seg]; omega) b
    rw [← seg_set_of_mem fr b h8, getD_seg fr 8 154 _ (by omega), Nat.add_sub_cancel' h8] at hset
    rw [frameOK_iff]
    omega
  case outside => rwa [frameOK, seg_set_of_not_mem fr b (by omega)]

end Sys2Proof.Proofs

/-! ## CHKV, beside USCR -/

namespace Sys2Proof.Machine

open Sys2Proof.Claims

section

variable {s : State} {f : Nat → Byte} (hw : Written s s.ilen.toNat f)
include hw

/-- Every frame of written input passes the check (R114). -/
theorem firstBad_of_written_eq_none (hpass : ∀ b, b < s.ilen.toNat / 155 → FramePasses f b) :
    firstBad (parts 155 (s.input s.ilen.toNat)) = none := by
  rw [firstBad_parts_eq_none_iff, length_input, input_of_written hw]
  exact fun b hb => (frameOK_frame_iff f hb).2 (hpass b hb)

/-- Frame `b` of written input is the first that fails the check (R114). -/
theorem firstBad_of_written_eq_some {b : Nat} (hb : b < s.ilen.toNat / 155) (hbad : ¬FramePasses f b)
    (hpass : ∀ c, c < b → FramePasses f c) : firstBad (parts 155 (s.input s.ilen.toNat)) = some b := by
  rw [firstBad_parts_eq_some_iff, length_input, input_of_written hw]
  exact ⟨hb, Bool.eq_false_iff.2 (mt (frameOK_frame_iff f hb).1 hbad),
    fun c hc => (frameOK_frame_iff f (by omega)).2 (hpass c hc)⟩

end

end Sys2Proof.Machine

namespace Sys2Proof.Proofs

open Sys2Proof.Machine Sys2Proof.Claims

/-- Settles O42: CHKV ends by what the check of the frames finds, with OK or at the first that fails. -/
theorem chkvChecksEveryFrame : Obligations.ChkvChecksEveryFrame := by
  intro s f h155 hle hw
  refine ⟨fun hpass => ?_, fun b hb hbad hpass => ?_⟩
  · exact ⟨_, exec_chkv_of_firstBad_none ⟨h155, hle⟩ (firstBad_of_written_eq_none hw hpass), succeeded_clearOlen s _⟩
  · exact ⟨_, exec_chkv_of_firstBad_some ⟨h155, hle⟩ (firstBad_of_written_eq_some hw hb hbad hpass),
      failed_checksum s _ (by omega)⟩

/-- Settles O43: the two take the same length rule, and the same check of the same input. -/
theorem chkvAgreesWithUscr : Obligations.ChkvAgreesWithUscr := by
  intro s
  by_cases hn : s.ilen.toNat % 155 = 0 ∧ s.ilen.toNat ≤ 2480
  · cases h : firstBad (parts 155 (s.input s.ilen.toNat)) with
    | none => exact ⟨_, _, exec_chkv_of_firstBad_none hn h, exec_uscr_of_firstBad_none hn h, rfl, rfl⟩
    | some b => exact ⟨_, _, exec_chkv_of_firstBad_some hn h, exec_uscr_of_firstBad_some hn h, rfl, rfl⟩
  · exact ⟨_, _, exec_chkv_of_not_length hn, exec_uscr_of_not_length hn, rfl, rfl⟩

end Sys2Proof.Proofs

/-! ## The frame that WRPG makes -/

namespace Sys2Proof.Machine

open Sys2Proof.Claims

/-- An overlay leaves the segments before it. -/
theorem seg_overlay_of_le (l t : List Byte) {a c d : Nat} (hd : d ≤ a) (ha : a ≤ l.length) :
    seg (overlay l a t) c d = seg l c d := by
  rw [seg, seg, ← List.drop_take, ← List.drop_take, overlay, List.append_assoc,
    List.take_append_of_le_length (by rw [List.length_take]; omega), List.take_take, Nat.min_eq_left hd]

/-- The segment an overlay writes is what it writes. -/
theorem seg_overlay_self (l t : List Byte) {a d : Nat} (hd : d = a + t.length) (ha : a ≤ l.length) :
    seg (overlay l a t) a d = t := by
  have hlen : (l.take a).length = a := by rw [List.length_take]; omega
  rw [seg, overlay, List.append_assoc, List.drop_left' hlen, List.take_left' (by omega)]

/-- An overlay inside a sequence of length `n` leaves it a sequence of length `n`. -/
theorem length_overlay_eq {l t : List Byte} {a n : Nat} (hl : l.length = n) (h : a + t.length ≤ n) :
    (overlay l a t).length = n :=
  (length_overlay l a t (hl ▸ h)).trans hl

/-- A frame whose byte 153 is overlaid with the checksum of its bytes 8..152 passes the check, whatever its terminator
(R112, R114). -/
theorem frameOK_overlay_csum7 {g : List Byte} (hg : g.length = 155) (e : Byte) :
    frameOK (overlay (overlay g 153 [csum7 (seg g 8 153)]) 154 [e]) = true := by
  have hlen : (overlay g 153 [csum7 (seg g 8 153)]).length = 155 := length_overlay_eq hg (by simp)
  have hseg : seg (overlay g 153 [csum7 (seg g 8 153)]) 8 154 = seg g 8 153 ++ [csum7 (seg g 8 153)] := by
    rw [← seg_append_seg _ 8 153 154 (by decide) (by decide), seg_overlay_of_le _ _ (by decide) (by omega),
      seg_overlay_self (a := 153) (d := 154) _ _ rfl (by omega)]
  rw [frameOK_iff, seg_overlay_of_le _ _ (by decide) (by omega), hseg, byteSum_append, byteSum_cons, byteSum_nil]
  exact byteSum_add_csum7 _

/-- A Write Page frame passes the check (R111, R114). -/
theorem frameOK_writePage (l : List Byte) (p : Nat) (hl : l.length = 155) : frameOK (writePage l p) = true :=
  frameOK_overlay_csum7 (length_overlay_eq (length_overlay_eq hl (by simp)) (by simp)) _

/-- A sequence of one frame is that frame. -/
theorem parts_frame {l : List Byte} (hl : l.length = 155) : parts 155 l = [l] := by
  have hseg : seg l 0 155 = l := List.take_of_length_le (by rw [List.drop_zero]; omega)
  simp [parts, hl, hseg]

/-- One frame that passes the check is no bad frame. -/
theorem firstBad_singleton {l : List Byte} (h : frameOK l = true) : firstBad [l] = none :=
  (firstBad_eq_none _).2 (List.forall_mem_singleton.2 h)

/-- The payload of a Write Page frame is that of its input (R111). -/
theorem writePage_payload (l : List Byte) (p : Nat) (hl : l.length = 155) {o : Nat} (h10 : 10 ≤ o) (h153 : o < 153) :
    (writePage l p)[o]? = l[o]? := by
  rw [writePage_getElem? l p hl (by omega), if_neg (by omega), if_neg (by omega), if_pos h153,
    getElem?_eq_some_byteAt (by omega)]

/-- A command whose input bytes all stand in IBUF reads them. -/
theorem input_eq_of_read {s : State} {l : List Byte} (h : ∀ j, j < l.length → Cells.read s.ibuf j = l[j]?) :
    s.input l.length = l := by
  apply List.ext_getElem?
  intro j
  by_cases hj : j < l.length
  · rw [input_getElem? s _ j hj, h j hj, List.getElem?_eq_getElem hj, Option.getD_some]
  · rw [List.getElem?_eq_none (by rw [length_input]; omega), List.getElem?_eq_none (by omega)]

end Sys2Proof.Machine

namespace Sys2Proof.Proofs

open Sys2Proof.Machine Sys2Proof.Claims

/-- Settles O46: the input of both commands is the one Write Page frame, which passes the check and carries the payload
of WRPG's input. -/
theorem writtenPageIsAcceptedBack : Obligations.WrittenPageIsAcceptedBack := by
  intro s t u ht hok hu hcopy
  obtain ⟨hn, hp⟩ := wrpg_operands_of_ok ht hok
  rw [exec_wrpg_of_range hn hp] at ht
  cases ht
  have hsl : (s.input 155).length = 155 := length_input s 155
  have hlen := length_writePage _ s.page.toNat hsl
  have hgood := frameOK_writePage _ s.page.toNat hsl
  have hpay (o : Nat) := writePage_payload _ s.page.toNat hsl (o := o)
  generalize writePage (s.input 155) s.page.toNat = fr at *
  have hin : u.input u.ilen.toNat = fr := by
    rw [hu, ← hlen]
    refine input_eq_of_read fun j hj => ?_
    rw [hcopy j (by omega), read_succeeded_obuf, if_pos hj]
  have hparts : parts 155 (u.input u.ilen.toNat) = [fr] := by rw [hin, parts_frame hlen]
  have hnone : firstBad (parts 155 (u.input u.ilen.toNat)) = none := by rw [hparts, firstBad_singleton hgood]
  have hsize : u.ilen.toNat % 155 = 0 ∧ u.ilen.toNat ≤ 2480 := by omega
  refine ⟨⟨_, exec_chkv_of_firstBad_none hsize hnone, rfl⟩, _, exec_uscr_of_firstBad_none hsize hnone, rfl, ?olen,
    fun x hx hw j hj => ?block⟩
  all_goals rw [hparts, List.flatMap_singleton]
  case olen => rw [succeeded_olen u _ _ (by simp), length_unpackFrame]
  case block =>
    have hback : unpackFrame fr = x := unpackFrame_of_payload x fr hx fun o h10 h153 => by
      rw [hpay o h10 h153, input_of_written hw, List.getElem?_map, List.getElem?_range (by omega), Option.map_some,
        getElem?_eq_some_byteAt (by rw [length_packBlock x hx]; omega)]
    rw [hback, read_succeeded_obuf, if_pos (by omega)]

end Sys2Proof.Proofs
end

section
/-! PROOFS. The family 60_exceptions.md: every command ends in a success or in a failure, and what each leaves unchanged;
the result codes a command, and a word in CMD, can finish with. -/

/-! ## The two ways a command ends -/

namespace Sys2Proof.Machine

open Sys2Proof.Claims

/-- Every command ends as a success, or as a failure whose ERRBLK is 0 but for CHECKSUM_ERROR (R126). -/
theorem exec_succeeded_or_failed {i : Instr} {s t : State} (h : exec i s = .next t) :
    (∃ len, Succeeded s t len) ∨ ∃ c b, c ≠ .ok ∧ (c ≠ .checksumError → b = 0) ∧ Failed s t c b := by
  rcases exec_cases i s t h with ⟨d, out, hle, -, rfl⟩ | ⟨d, -, rfl⟩ | ⟨d, b, hb, -, rfl⟩ | ⟨c, hok, hsum, -, rfl⟩
  · exact .inl ⟨_, succeeded_finish s d rfl hle⟩
  · exact .inl ⟨_, succeeded_clearOlen s d⟩
  · exact .inr ⟨_, b, by decide, absurd rfl, failed_checksum s d hb⟩
  · exact .inr ⟨c, 0, hok, fun _ => rfl, failed_finish s hok hsum⟩

/-- With a word in CMD that is no command's, the ENGINE's step is `finish(ILLEGAL_COMMAND)` (R65). -/
theorem engineStep_of_ne_encode {s : State} (hb : s.busy = true) (hne : ∀ i, s.cmd ≠ encode i) :
    engineStep s = .next (s.finish .illegalCommand) := by
  rcases engineStep_cases s hb with ⟨i, hi, -⟩ | ⟨_, -, he⟩
  · exact absurd (eq_encode_of_decode hi) (hne i)
  · exact he

/-- A command's word finishes with that command's results (R123). -/
theorem wordResults_of_decode_ok {w : Word} {i : Instr} (h : decode w = .ok i) : wordResults w = instrResults i := by
  rw [wordResults, h]

/-- An illegal word finishes with ILLEGAL_COMMAND alone (R65, R123). -/
theorem wordResults_of_decode_error {w : Word} {e : DecodeError} (h : decode w = .error e) :
    wordResults w = [.illegalCommand] := by
  rw [wordResults, h]

end Sys2Proof.Machine

namespace Sys2Proof.Proofs

open Sys2Proof.Machine Sys2Proof.Claims

/-- Settles O10: a success and a failure each say what they keep, and RESULT tells the two apart. -/
theorem frameOfEveryCommand : Obligations.FrameOfEveryCommand := by
  intro i s t h
  rcases exec_succeeded_or_failed h with
    ⟨_, hkeep, ⟨hbusy, hdone, hres, herr⟩, holen, hobuf⟩
      | ⟨c, b, hc, hb, hkeep, ⟨hbusy, hdone, hres, herr⟩, holen, hobuf⟩
  · exact ⟨hkeep, hbusy, hdone, fun _ => ⟨herr, fun j hj => hobuf j (holen ▸ hj)⟩, absurd hres, fun _ => herr⟩
  · exact ⟨hkeep, hbusy, hdone, fun hok => absurd (hres.symm.trans hok) hc, fun _ => ⟨holen, hobuf⟩,
      fun hsum => herr.trans (hb (hres ▸ hsum))⟩

/-- Settles O9: R123's row holds every result of its command, and an illegal word runs no command. -/
theorem resultCodesPerCommand : Obligations.ResultCodesPerCommand := by
  refine ⟨fun s t hb hne h => ?_, fun i s t h => ?_⟩
  · rw [engineStep_of_ne_encode hb hne] at h
    cases h
    rfl
  · have hmem := exec_result_mem i s t h
    cases i <;> simpa [instrResults] using hmem

/-- Settles O8: the ENGINE runs the command in CMD, which completes from every state, or finishes with
ILLEGAL_COMMAND. -/
theorem everyEngineStepFinishes : Obligations.EveryEngineStepFinishes := by
  intro s hf hn hb
  rw [step_engine hf hn]
  rcases engineStep_cases s.popTurn hb with ⟨i, hi, he⟩ | ⟨e, hd, he⟩
  · obtain ⟨t, ht⟩ := exec_next i s.popTurn
    obtain ⟨hkeep, hbusy, hdone, -⟩ := frameOfEveryCommand i s.popTurn t ht
    exact ⟨t, he.trans ht, hbusy, hdone, wordResults_of_decode_ok hi ▸ exec_result_mem i s.popTurn t ht, hkeep⟩
  · obtain ⟨hkeep, -⟩ := failed_finish s.popTurn (c := .illegalCommand) (by decide) (by decide)
    exact ⟨_, he, rfl, rfl, wordResults_of_decode_error hd ▸ List.mem_singleton_self _, hkeep⟩

end Sys2Proof.Proofs
end

section
/-! PROOFS. The family 70_reset_and_hazards.md: what an access is answered while BUSY = 1, that a command in flight
ends, and that a WAIT loop ends. -/

/-! ## Accesses while BUSY = 1 -/

namespace Sys2Proof.Machine

open Sys2Proof.Claims

section

variable {a : BusAddr}

/-- With BUSY = 1 an access to a word of the map is a host hazard, but for a read of STATUS (R146). -/
theorem accessFault_of_busy {s : State} {dir : Dir} (hb : s.busy = true) (ha : a.toNat % 4 = 0) (hm : Mapped a)
    (hstatus : ¬(dir = .read ∧ a = 0x0004#16)) : s.accessFault dir a 4 = some (.hostHazard a) := by
  obtain ⟨t, ht⟩ := exists_target_of_mapped ha hm
  have hplace : ¬(dir = .read ∧ t = .status) := by
    rintro ⟨hdir, rfl⟩
    exact hstatus ⟨hdir, BitVec.eq_of_toNat_eq ((target?_eq_some a .status).1 ht)⟩
  rw [accessFault_mapped s dir a t ha ht, if_pos ⟨hb, hplace⟩]

end

/-- A read of STATUS is made, BUSY or not, and changes the HOST alone (R45, R146). -/
theorem step_read_status {s : State} {a : HostAddr} {dst : Option HostVar} {pc : Nat}
    (hr : HostRuns s (.read a 4 dst) pc) (ha : a.addr = 0x0004#16) :
    step s = .next { s with
      host := (s.host.made pc (.read 0x0004#16 s.status)).keep dst s.status
      turns := s.turns.tail } := by
  obtain ⟨hf, hn, hs⟩ := hr
  have hok : s.popTurn.accessFault .read 0x0004#16 4 = none := by
    rw [accessFault_mapped _ _ _ .status rfl rfl, if_neg (by simp)]
  rw [step_host s _ pc hf hn hs, hostStmt, ha, hostRead, hok]
  rfl

/-- Under the invariant STATUS is 0x00000001 while BUSY = 1 (R21). -/
theorem status_of_busy {s : State} (hinv : s.Inv) (hb : s.busy = true) : s.status = 0x00000001#32 := by
  obtain ⟨hdone, hresult⟩ := hinv.busy_legal hb
  rw [State.status, hb, hdone, hresult]
  rfl

end Sys2Proof.Machine

namespace Sys2Proof.Proofs

open Sys2Proof.Machine Sys2Proof.Claims

/-- Settles O21: every access but the STATUS read raises the hazard, and a recorded fault stops the machine. -/
theorem hostHazardsAreRecorded : Obligations.HostHazardsAreRecorded := by
  intro s a v dst pc hb
  refine ⟨fun hr ha hm => ?_, fun hr hne ha hm => ?_, fun hr ha => ?_⟩
  · exact ⟨_, rfl, step_write_refused hr (accessFault_of_busy hb ha hm (by simp)), step_of_fault rfl⟩
  · exact ⟨_, rfl, step_read_refused hr (accessFault_of_busy hb ha hm (by simp [hne])), step_of_fault rfl⟩
  · exact ⟨_, step_read_status hr ha, hr.1⟩

/-- Settles O22: the read returns STATUS, whose DONE and RESULT are 0 under the invariant. -/
theorem statusReadAllowedWhileBusy : Obligations.StatusReadAllowedWhileBusy := by
  intro s a dst pc hr ha hinv hb
  refine ⟨_, step_read_status hr ha, hr.1, ?same, ?trace, ?vars⟩
  case same => exact ⟨rfl, rfl, rfl, rfl, rfl, rfl, rfl, rfl, rfl, fun _ => rfl, fun _ => rfl⟩
  case trace => simp [status_of_busy hinv hb]
  case vars =>
    intro x hx
    rw [read_keep_vars, if_pos hx, status_of_busy hinv hb]

end Sys2Proof.Proofs

/-! ## Runs of a bounded length -/

namespace Sys2Proof.Machine

open Sys2Proof.Claims

/-- Some run of at most `n` steps from `s` ends in a state of which `P` holds. -/
def ReachesWithin (P : State → Prop) (n : Nat) (s : State) : Prop :=
  ∃ (k : Nat) (t : State), k ≤ n ∧ Host.Core.run core k s = .next t ∧ P t

section

variable {P : State → Prop} {n : Nat} {s u : State}

/-- A run that begins with a step to `u` goes on as a run from `u`. -/
theorem run_succ_of_step (h : step s = .next u) (k : Nat) :
    Host.Core.run core (k + 1) s = Host.Core.run core k u := by
  have hcore : core.step s = .next u := h
  simp only [Host.Core.run, hcore]

/-- Where `P` holds, no step is needed. -/
theorem reachesWithin_of_holds (h : P s) : ReachesWithin P n s := ⟨0, s, Nat.zero_le n, rfl, h⟩

/-- What the next state reaches within `n` steps is reached within `n + 1`. -/
theorem reachesWithin_of_step (h : step s = .next u) (hu : ReachesWithin P n u) : ReachesWithin P (n + 1) s := by
  obtain ⟨k, t, hk, hrun, ht⟩ := hu
  exact ⟨k + 1, t, Nat.succ_le_succ hk, (run_succ_of_step h k).trans hrun, ht⟩

/-- A bound may be raised. -/
theorem ReachesWithin.mono {m : Nat} (hnm : n ≤ m) (h : ReachesWithin P n s) : ReachesWithin P m s := by
  obtain ⟨k, t, hk, ht⟩ := h
  exact ⟨k, t, hk.trans hnm, ht⟩

/-- The induction on the turns listed: if a step that takes one of them reaches `P` or keeps `I`, and `I` reaches `P`
within `c` steps once none is left, then `I` reaches `P` within `c` steps more than the turns. -/
theorem reachesWithin_of_turns {I : State → Prop} {c : Nat}
    (hend : ∀ s, I s → s.turns = [] → ReachesWithin P c s)
    (hstep : ∀ s, I s → s.turns ≠ [] → ∃ t, step s = .next t ∧ t.turns = s.turns.tail ∧ (P t ∨ I t))
    (hI : I s) : ReachesWithin P (s.turns.length + c) s := by
  induction hturns : s.turns generalizing s with
  | nil => exact (hend s hI hturns).mono (Nat.le_add_left c _)
  | cons u us ih =>
    rw [List.length_cons, Nat.add_right_comm]
    obtain ⟨t, ht, htail, hP | hI'⟩ := hstep s hI (by simp [hturns])
    · exact reachesWithin_of_step ht (reachesWithin_of_holds hP)
    · exact reachesWithin_of_step ht (ih hI' (by rw [htail, hturns, List.tail_cons]))

end

/-! ## A command in flight -/

section

variable {s : State}

/-- On the ENGINE's turn the step clears BUSY, where it was set, and leaves FAULT, the HOST and the other turns (R15,
R127). -/
theorem step_engine_ends_idle (hf : s.fault = none) (hn : s.nextTurn = .engine) :
    ∃ t, step s = .next t ∧ t.busy = false ∧ t.fault = none ∧ t.host = s.host ∧ t.turns = s.turns.tail := by
  cases hb : s.busy with
  | true =>
    obtain ⟨t, ht, hidle, -, -, -, -, -, -, -, hfault, hhost, hturns⟩ := Proofs.everyEngineStepFinishes s hf hn hb
    exact ⟨t, ht, hidle, hfault.trans hf, hhost, hturns⟩
  | false =>
    obtain ⟨-, -, hpass⟩ := Proofs.stepRunsTheDecodedCommand
    exact ⟨_, hpass s hf hn hb, hb, hf, rfl, rfl⟩

/-- With no fault on record there is a step, and it takes one turn. -/
theorem exists_step (hf : s.fault = none) : ∃ t, step s = .next t ∧ t.turns = s.turns.tail := by
  cases hn : s.nextTurn with
  | reset => exact ⟨_, step_reset hf hn, rfl⟩
  | host => exact ⟨hostStep s.popTurn, by simp [step, hf, hn], hostStep_turns _⟩
  | engine =>
    obtain ⟨t, ht, -, -, -, hturns⟩ := step_engine_ends_idle hf hn
    exact ⟨t, ht, hturns⟩

/-- With no turn listed and BUSY = 1 the ENGINE moves (log 2). -/
theorem nextTurn_engine_of_busy (h : s.turns = []) (hb : s.busy = true) : s.nextTurn = .engine := by
  simp [State.nextTurn, h, hb]

/-- With no turn listed and BUSY = 0 the HOST moves (log 2). -/
theorem nextTurn_host_of_idle (h : s.turns = []) (hb : s.busy = false) : s.nextTurn = .host := by
  simp [State.nextTurn, h, hb]

/-- The next turn is one of those listed, if there are any. -/
theorem nextTurn_mem (h : s.turns ≠ []) : s.nextTurn ∈ s.turns := by
  obtain ⟨u, us, hturns⟩ := List.exists_cons_of_ne_nil h
  rw [State.nextTurn, hturns]
  exact List.mem_cons_self

end

end Sys2Proof.Machine

namespace Sys2Proof.Proofs

open Sys2Proof.Machine

/-- Settles O11: while BUSY = 1 and no fault is on record every step takes a turn, and after the last one the ENGINE
moves, which finishes the command. -/
theorem commandInFlightEnds : Obligations.CommandInFlightEnds := by
  intro s hf hb
  refine reachesWithin_of_turns (I := fun s => s.fault = none ∧ s.busy = true)
    (P := fun t => t.busy = false ∨ t.fault.isSome = true) ?none_left ?turn_taken ⟨hf, hb⟩
  case none_left =>
    intro s ⟨hf, hb⟩ hturns
    obtain ⟨t, ht, hidle, -⟩ := step_engine_ends_idle hf (nextTurn_engine_of_busy hturns hb)
    exact reachesWithin_of_step ht (reachesWithin_of_holds (.inl hidle))
  case turn_taken =>
    intro s ⟨hf, _⟩ _
    obtain ⟨t, ht, hturns⟩ := exists_step hf
    refine ⟨t, ht, hturns, ?_⟩
    cases t.busy with
    | false => exact .inl (.inl rfl)
    | true =>
      cases t.fault with
      | some _ => exact .inl (.inr rfl)
      | none => exact .inr ⟨rfl, rfl⟩

end Sys2Proof.Proofs

/-! ## A WAIT loop -/

namespace Sys2Proof.Machine

open Sys2Proof.Claims

/-- The HOST is inside the `WAIT l` that begins at line `p`: at its label, or past the STATUS read, where `$s` shows
BUSY = 1 whenever the block is busy. No fault is on record and no reset is among the turns. -/
structure InWait (l : Label) (p : Nat) (s : State) : Prop where
  no_fault : s.fault = none
  not_failed : s.host.failed = false
  no_reset : ∀ u ∈ s.turns, u ≠ .reset
  lines : ∃ rest, s.host.script.drop p = Script.wait l ++ rest
  label_at : Script.find? s.host.script l = some p
  place : s.host.pc = p ∨ (s.host.pc = p + 2 ∧ (s.busy = true → s.host.var Script.varS &&& 1#32 ≠ 0))

/-- The HOST has left the WAIT that begins at line `p`, with BUSY = 0 and no fault. -/
def LeftWait (p : Nat) (t : State) : Prop :=
  t.host.pc = p + 3 ∧ t.busy = false ∧ t.fault = none ∧ t.host.failed = false

/-- The state once the STATUS read of a WAIT at line `p` is made. -/
def State.afterStatusRead (p : Nat) (s : State) : State :=
  { s with
    host := (s.host.made (p + 2) (.read 0x0004#16 s.status)).keep (some Script.varS) s.status
    turns := s.turns.tail }

/-- The state once the HOST has gone to line `pc` by a branch. -/
def State.afterBranch (pc : Nat) (s : State) : State :=
  { s with host := { s.host with pc := pc }, turns := s.turns.tail }

/-- BUSY, in what the read keeps in `$s`. -/
theorem afterStatusRead_var_and_one (p : Nat) (s : State) :
    (s.afterStatusRead p).host.var Script.varS &&& 1#32 = if s.busy then 1#32 else 0#32 := by
  have hread : (s.afterStatusRead p).host.var Script.varS = s.status := by
    simp [State.afterStatusRead, HostAgent.var, read_keep_vars]
  rw [hread, State.status, statusWord_and_one]

namespace InWait

variable {l : Label} {p : Nat} {s t : State}

/-- At its label the HOST makes the STATUS read. -/
theorem step_at_label (h : InWait l p s) (hpc : s.host.pc = p) (hn : s.nextTurn = .host) :
    step s = .next (s.afterStatusRead p) := by
  obtain ⟨rest, hlines⟩ := h.lines
  have hfetch : s.host.fetch = some (.read .status 4 (some Script.varS), p + 2) := by
    rw [HostAgent.fetch, h.not_failed, hpc, hlines]
    rfl
  exact step_read_status ⟨h.no_fault, hn, hfetch⟩ rfl

/-- Past the read the HOST goes back to the label or leaves the loop, by bit 0 of `$s`. -/
theorem step_at_branch (h : InWait l p s) (hpc : s.host.pc = p + 2) (hn : s.nextTurn = .host) :
    step s = .next (s.afterBranch (if s.host.var Script.varS &&& 1#32 = 0 then p + 3 else p)) := by
  obtain ⟨rest, hlines⟩ := h.lines
  have hfetch : s.host.fetch = some (.branch Script.varS 1#32 l, p + 3) := by
    rw [HostAgent.fetch, h.not_failed, hpc, ← List.drop_drop, hlines]
    rfl
  obtain ⟨hbranch, -⟩ := Proofs.branchAndCheckFollowTheScript s Script.varS 1#32 0 l (p + 3) p
  exact hbranch ⟨h.no_fault, hn, hfetch⟩ h.label_at

/-- The reset input is not among the turns that remain. -/
theorem no_reset_tail (h : InWait l p s) : ∀ u ∈ s.turns.tail, u ≠ .reset :=
  fun u hu => h.no_reset u (List.mem_of_mem_tail hu)

/-- A turn of the ENGINE leaves the HOST in the loop. -/
theorem of_engine (h : InWait l p s) (hb : t.busy = false) (hf : t.fault = none) (hhost : t.host = s.host)
    (hturns : t.turns = s.turns.tail) : InWait l p t where
  no_fault := hf
  not_failed := hhost ▸ h.not_failed
  no_reset := hturns ▸ h.no_reset_tail
  lines := hhost ▸ h.lines
  label_at := hhost ▸ h.label_at
  place := by
    rw [hhost]
    exact h.place.imp_right fun ⟨hpc, _⟩ => ⟨hpc, by simp [hb]⟩

/-- The STATUS read leaves the HOST in the loop, with BUSY in bit 0 of `$s`. -/
theorem afterStatusRead (h : InWait l p s) : InWait l p (s.afterStatusRead p) where
  no_fault := h.no_fault
  not_failed := h.not_failed
  no_reset := h.no_reset_tail
  lines := h.lines
  label_at := h.label_at
  place := by
    refine .inr ⟨rfl, fun hb => ?_⟩
    have hb : s.busy = true := hb
    simp [afterStatusRead_var_and_one, hb]

/-- The branch taken leaves the HOST in the loop. -/
theorem afterBranch (h : InWait l p s) : InWait l p (s.afterBranch p) where
  no_fault := h.no_fault
  not_failed := h.not_failed
  no_reset := h.no_reset_tail
  lines := h.lines
  label_at := h.label_at
  place := .inl rfl

/-- The branch not taken leaves the loop. -/
theorem leaves (h : InWait l p s) (hb : s.busy = false) : LeftWait p (s.afterBranch (p + 3)) :=
  ⟨rfl, hb, h.no_fault, h.not_failed⟩

/-- A step of the HOST or the ENGINE leaves the loop or stays in it. -/
theorem step_leaves_or_stays (h : InWait l p s) (hn : s.nextTurn ≠ .reset) :
    ∃ t, step s = .next t ∧ t.turns = s.turns.tail ∧ (LeftWait p t ∨ InWait l p t) := by
  cases hturn : s.nextTurn with
  | reset => exact absurd hturn hn
  | engine =>
    obtain ⟨t, ht, hb, hf, hhost, hturns⟩ := step_engine_ends_idle h.no_fault hturn
    exact ⟨t, ht, hturns, .inr (h.of_engine hb hf hhost hturns)⟩
  | host =>
    rcases h.place with hpc | ⟨hpc, hvar⟩
    · exact ⟨_, h.step_at_label hpc hturn, rfl, .inr h.afterStatusRead⟩
    · refine ⟨_, h.step_at_branch hpc hturn, rfl, ?_⟩
      split
      next hclear => exact .inl (h.leaves (Bool.eq_false_iff.2 fun hb => hvar hb hclear))
      next => exact .inr h.afterBranch

/-! With no turn listed the ENGINE moves once if it is busy, and then the HOST alone. -/

/-- With BUSY = 0 and none listed, the HOST leaves within two steps of the label. -/
theorem leaves_from_label (h : InWait l p s) (hpc : s.host.pc = p) (hb : s.busy = false) (hturns : s.turns = []) :
    ReachesWithin (LeftWait p) 2 s := by
  refine reachesWithin_of_step (h.step_at_label hpc (nextTurn_host_of_idle hturns hb)) ?_
  have htail : (s.afterStatusRead p).turns = [] := congrArg List.tail hturns
  have hleave := h.afterStatusRead.step_at_branch rfl (nextTurn_host_of_idle htail hb)
  rw [if_pos (by simp [afterStatusRead_var_and_one, hb])] at hleave
  exact reachesWithin_of_step hleave (reachesWithin_of_holds (h.afterStatusRead.leaves hb))

/-- With BUSY = 0 and none listed, the HOST leaves within three steps. -/
theorem leaves_of_idle (h : InWait l p s) (hb : s.busy = false) (hturns : s.turns = []) :
    ReachesWithin (LeftWait p) 3 s := by
  rcases h.place with hpc | ⟨hpc, -⟩
  · exact (h.leaves_from_label hpc hb hturns).mono (by decide)
  · refine reachesWithin_of_step (h.step_at_branch hpc (nextTurn_host_of_idle hturns hb)) ?_
    split
    next => exact reachesWithin_of_holds (h.leaves hb)
    next => exact h.afterBranch.leaves_from_label rfl hb (congrArg List.tail hturns)

/-- With none listed, the HOST leaves within four steps: the ENGINE's finish may come first. -/
theorem leaves_of_no_turns (h : InWait l p s) (hturns : s.turns = []) : ReachesWithin (LeftWait p) 4 s := by
  cases hb : s.busy with
  | false => exact (h.leaves_of_idle hb hturns).mono (by decide)
  | true =>
    obtain ⟨t, ht, hidle, hf, hhost, htail⟩ :=
      step_engine_ends_idle h.no_fault (nextTurn_engine_of_busy hturns hb)
    exact reachesWithin_of_step ht ((h.of_engine hidle hf hhost htail).leaves_of_idle hidle (by simp [htail, hturns]))

end InWait

end Sys2Proof.Machine

namespace Sys2Proof.Proofs

open Sys2Proof.Machine

/-- Settles O12: each turn listed leaves the loop or stays in it, and with none left the loop ends within four steps. -/
theorem waitLoopEnds : Obligations.WaitLoopEnds := by
  intro s l rest hf hfailed hreset hlines hlabel
  have hin : InWait l s.host.pc s := ⟨hf, hfailed, hreset, ⟨rest, hlines⟩, hlabel, .inl rfl⟩
  exact reachesWithin_of_turns (P := LeftWait s.host.pc) (fun _ h => h.leaves_of_no_turns)
    (fun u h hu => h.step_leaves_or_stays (h.no_reset _ (nextTurn_mem hu))) hin

end Sys2Proof.Proofs
end
